-- ==== Sys2Proof/Word.lean ====
section
/-! DEFINITION. The word and byte types of CORE: every value is a 16-bit word with arithmetic modulo
65536 (rules R7 and R10); the host interface alone carries 8-bit codes (rules R32, R33). -/

namespace Sys2Proof

/-- A 16-bit word (`Word16` of rule R10): register contents, addresses, memory cells, instructions. -/
abbrev Word := BitVec 16

/-- An 8-bit code of the host interface (rules R32 and R33). -/
abbrev Byte := BitVec 8

end Sys2Proof
end

