-- ==== Sys2Proof/Config.lean ====
section
/-! DEFINITION. What is fixed for the machine (rule R7) and what the spec leaves to the host or to
the implementation (rule R8): the latter are `opaque` constants without a body, so no proof can see
a value of them. -/

namespace Sys2Proof.Config

/-- The fixed start address (rule R17). -/
def startAddress : Word := 0x3000

/-- The keyboard status register's address (rules R7 and R40). -/
def kbsr : Word := 0xFE00

/-- The keyboard data register's address (rules R7 and R40). -/
def kbdr : Word := 0xFE02

/-- What a memory cell reads as that no image and no store has written: memory is "initialized to
zero" (rule R24, decision D16; log entry 4). -/
def unlistedCell : Word := 0

/-- `GPR_INIT` (rule R16, decision D4): an open parameter of the spec, whose reference value is zero
for all eight registers. DESIGN CHOICE (log entry 1): the reset state takes the reference value. -/
def gprInit : Fin 8 → Word := fun _ => 0

/-- `POLL` (rules R8 and R31, decision D8): the answer to the `n`-th `HostPending` call when the state
lists no answer for it. A free value: nothing constrains it (log entry 2). -/
opaque pollAnswer : Nat → Bool

/-- `CHAR` (rules R8 and R32, decision D8): the `n`-th byte the host hands over when the state lists no
byte for it. A free value: nothing constrains it (log entry 2). -/
opaque hostByte : Nat → Byte

/-- `IN_PROMPT` (rule R8, decision D10, OPEN): the bytes the IN routine writes before it reads. A free
value: nothing constrains it (log entry 5). -/
opaque inPrompt : List Byte

/-- What the loader may do with image words beyond address 0xFFFF (decision D16 names these three). -/
inductive LoaderOverflow where
  | wrap
  | truncate
  | fail
deriving DecidableEq, Repr, Inhabited

/-- `LOADER_OVERFLOW` (rule R8, decision D16, OPEN). A free value: nothing constrains it (log entry 9). -/
opaque loaderOverflow : LoaderOverflow

end Sys2Proof.Config
end

