-- ==== Sys2Proof/Syntax.lean ====
section
/-! DEFINITION. The instructions of CORE, one constructor per row of spec/opcode_table.json, with
their operand fields already separated (rules R56 to R58). Bits a format ignores (rule R59) are not
part of an instruction. -/

namespace Sys2Proof

/-- The eight general registers R0 to R7 (rule R14). -/
inductive Reg where
  | r0 | r1 | r2 | r3 | r4 | r5 | r6 | r7
deriving DecidableEq, Repr

/-- One constructor per row of spec/opcode_table.json. The rows RET, GETC, OUT, PUTS, IN, PUTSP and
HALT are other names for words of JMP and TRAP (rule R62); they are constructors here, so the `jmp`
and `trap` that the decoder makes are the words no such row covers (see `WellFormed`). -/
inductive Instr where
  /-- ADD, register form (rule R63). -/
  | addReg (dr sr1 sr2 : Reg)
  /-- ADD, immediate form (rule R63). -/
  | addImm (dr sr1 : Reg) (imm5 : BitVec 5)
  /-- AND, register form (rule R64). -/
  | andReg (dr sr1 sr2 : Reg)
  /-- AND, immediate form (rule R64). -/
  | andImm (dr sr1 : Reg) (imm5 : BitVec 5)
  /-- NOT (rule R65). -/
  | not (dr sr : Reg)
  /-- BR; `nzp` is the mask `instr[11:9]`, n highest (rules R58 and R75). -/
  | br (nzp : BitVec 3) (offset9 : BitVec 9)
  /-- JMP (rule R76). -/
  | jmp (baseR : Reg)
  /-- RET, which is JMP R7 (rules R62 and R76). -/
  | ret
  /-- JSR (rule R77). -/
  | jsr (offset11 : BitVec 11)
  /-- JSRR (rule R78). -/
  | jsrr (baseR : Reg)
  /-- LD (rule R68). -/
  | ld (dr : Reg) (offset9 : BitVec 9)
  /-- LDI (rule R69). -/
  | ldi (dr : Reg) (offset9 : BitVec 9)
  /-- LDR (rule R70). -/
  | ldr (dr baseR : Reg) (offset6 : BitVec 6)
  /-- LEA (rule R71). -/
  | lea (dr : Reg) (offset9 : BitVec 9)
  /-- ST (rule R72). -/
  | st (sr : Reg) (offset9 : BitVec 9)
  /-- STI (rule R73). -/
  | sti (sr : Reg) (offset9 : BitVec 9)
  /-- STR (rule R74). -/
  | str (sr baseR : Reg) (offset6 : BitVec 6)
  /-- TRAP (rule R80). -/
  | trap (vect8 : BitVec 8)
  /-- GETC, which is TRAP x20 (rules R62 and R81). -/
  | getc
  /-- OUT, which is TRAP x21 (rules R62 and R82). -/
  | out
  /-- PUTS, which is TRAP x22 (rules R62 and R83). -/
  | puts
  /-- IN, which is TRAP x23 (rules R62 and R84). -/
  | inp
  /-- PUTSP, which is TRAP x24 (rules R62 and R85). -/
  | putsp
  /-- HALT, which is TRAP x25 (rules R62 and R86). -/
  | halt
  /-- RTI (rule R89). -/
  | rti
  /-- RES (rule R90). -/
  | res
deriving DecidableEq, Repr

/-- The mnemonic of an instruction's row in spec/opcode_table.json. -/
def Instr.mnemonic : Instr → String
  | .addReg _ _ _ => "ADD"
  | .addImm _ _ _ => "ADD"
  | .andReg _ _ _ => "AND"
  | .andImm _ _ _ => "AND"
  | .not _ _ => "NOT"
  | .br _ _ => "BR"
  | .jmp _ => "JMP"
  | .ret => "RET"
  | .jsr _ => "JSR"
  | .jsrr _ => "JSRR"
  | .ld _ _ => "LD"
  | .ldi _ _ => "LDI"
  | .ldr _ _ _ => "LDR"
  | .lea _ _ => "LEA"
  | .st _ _ => "ST"
  | .sti _ _ => "STI"
  | .str _ _ _ => "STR"
  | .trap _ => "TRAP"
  | .getc => "GETC"
  | .out => "OUT"
  | .puts => "PUTS"
  | .inp => "IN"
  | .putsp => "PUTSP"
  | .halt => "HALT"
  | .rti => "RTI"
  | .res => "RES"

end Sys2Proof
end

