-- ==== Sys2Proof/WellFormed.lean ====
section
/-! DEFINITION. Which terms of `Instr` stand for an instruction word. The widths of all fields are in
their types, so two checks remain: a word with a name of its own in the opcode table is written with
that name's constructor (rule R62; DESIGN CHOICE, log entry 18). -/

namespace Sys2Proof

/-- `JMP R7` is written `ret` (rule R62). -/
def jmpIsNotRet (baseR : Reg) : Bool := baseR != .r7

/-- The vectors 0x20 to 0x25 are written with their routines' names (rules R62 and R80). -/
def trapIsNotRoutine (vect8 : BitVec 8) : Bool := !(0x20#8 ≤ vect8 && vect8 ≤ 0x25#8)

/-- A well-formed instruction: the one term that its words decode to. -/
def WellFormed : Instr → Bool
  | .addReg _ _ _ => true
  | .addImm _ _ _ => true
  | .andReg _ _ _ => true
  | .andImm _ _ _ => true
  | .not _ _ => true
  | .br _ _ => true
  | .jmp baseR => jmpIsNotRet baseR
  | .ret => true
  | .jsr _ => true
  | .jsrr _ => true
  | .ld _ _ => true
  | .ldi _ _ => true
  | .ldr _ _ _ => true
  | .lea _ _ => true
  | .st _ _ => true
  | .sti _ _ => true
  | .str _ _ _ => true
  | .trap vect8 => trapIsNotRoutine vect8
  | .getc => true
  | .out => true
  | .puts => true
  | .inp => true
  | .putsp => true
  | .halt => true
  | .rti => true
  | .res => true

end Sys2Proof
end

