-- ==== Sys2Proof/Decode.lean ====
section
/-! DEFINITION. The decoder (rules R53 to R60) and the encoder, both written from the field layout of
rule R56, and the opcode table's masks as data. Decoding one word is total (rule R54): there is no
encoding it refuses. The spec takes the layout from general knowledge (PRESUMED, log entry 7). -/

namespace Sys2Proof

/-! ### Fields -/

/-- A 3-bit register field with value `k` names Rk (rule R57). -/
def Reg.ofBits (k : BitVec 3) : Reg :=
  match k with
  | 0#3 => .r0
  | 1#3 => .r1
  | 2#3 => .r2
  | 3#3 => .r3
  | 4#3 => .r4
  | 5#3 => .r5
  | 6#3 => .r6
  | 7#3 => .r7

/-- The 3-bit field that names a register (rule R57). -/
def Reg.toBits : Reg → BitVec 3
  | .r0 => 0
  | .r1 => 1
  | .r2 => 2
  | .r3 => 3
  | .r4 => 4
  | .r5 => 5
  | .r6 => 6
  | .r7 => 7

namespace Field

/-- `instr[15:12]` (rule R55). -/
def opcode (w : Word) : BitVec 4 := w.extractLsb 15 12
/-- The register named by `instr[11:9]`: DR, and SR of the stores (rule R57). -/
def reg11 (w : Word) : Reg := Reg.ofBits (w.extractLsb 11 9)
/-- The register named by `instr[8:6]`: SR1, SR of NOT, BaseR (rule R57). -/
def reg8 (w : Word) : Reg := Reg.ofBits (w.extractLsb 8 6)
/-- The register named by `instr[2:0]`: SR2 (rule R57). -/
def reg2 (w : Word) : Reg := Reg.ofBits (w.extractLsb 2 0)
/-- `instr[4:0]` (rule R58). -/
def imm5 (w : Word) : BitVec 5 := w.extractLsb 4 0
/-- `instr[5:0]` (rule R58). -/
def offset6 (w : Word) : BitVec 6 := w.extractLsb 5 0
/-- `instr[8:0]` (rule R58). -/
def offset9 (w : Word) : BitVec 9 := w.extractLsb 8 0
/-- `instr[10:0]` (rule R58). -/
def offset11 (w : Word) : BitVec 11 := w.extractLsb 10 0
/-- `instr[7:0]` (rule R58). -/
def vect8 (w : Word) : BitVec 8 := w.extractLsb 7 0
/-- The condition mask n, z, p at `instr[11:9]` (rule R58). -/
def nzp (w : Word) : BitVec 3 := w.extractLsb 11 9
/-- The immediate-mode flag `instr[5]` of ADD and AND (rule R58). -/
def immMode (w : Word) : Bool := w.getLsbD 5
/-- The long-offset flag `instr[11]` of opcode 0100 (rule R58). -/
def longMode (w : Word) : Bool := w.getLsbD 11

end Field

/-! ### The decoder -/

/-- Opcode 1100: JMP, named RET when BaseR is R7 (rules R55 and R62). -/
def decodeJmp (baseR : Reg) : Instr := if baseR = .r7 then .ret else .jmp baseR

/-- Opcode 1111: TRAP, named by its routine for the six defined vectors (rules R62 and R80). -/
def decodeTrap (v : BitVec 8) : Instr :=
  if v = 0x20#8 then .getc
  else if v = 0x21#8 then .out
  else if v = 0x22#8 then .puts
  else if v = 0x23#8 then .inp
  else if v = 0x24#8 then .putsp
  else if v = 0x25#8 then .halt
  else .trap v

/-- The instruction a word stands for: the opcode map of rule R55 and the formats of rule R56. The
last arm is opcode 1111, the one value the arms before it leave. -/
def decode (w : Word) : Instr :=
  match Field.opcode w with
  | 0b0000#4 => .br (Field.nzp w) (Field.offset9 w)
  | 0b0001#4 =>
    if Field.immMode w then .addImm (Field.reg11 w) (Field.reg8 w) (Field.imm5 w)
    else .addReg (Field.reg11 w) (Field.reg8 w) (Field.reg2 w)
  | 0b0010#4 => .ld (Field.reg11 w) (Field.offset9 w)
  | 0b0011#4 => .st (Field.reg11 w) (Field.offset9 w)
  | 0b0100#4 => if Field.longMode w then .jsr (Field.offset11 w) else .jsrr (Field.reg8 w)
  | 0b0101#4 =>
    if Field.immMode w then .andImm (Field.reg11 w) (Field.reg8 w) (Field.imm5 w)
    else .andReg (Field.reg11 w) (Field.reg8 w) (Field.reg2 w)
  | 0b0110#4 => .ldr (Field.reg11 w) (Field.reg8 w) (Field.offset6 w)
  | 0b0111#4 => .str (Field.reg11 w) (Field.reg8 w) (Field.offset6 w)
  | 0b1000#4 => .rti
  | 0b1001#4 => .not (Field.reg11 w) (Field.reg8 w)
  | 0b1010#4 => .ldi (Field.reg11 w) (Field.offset9 w)
  | 0b1011#4 => .sti (Field.reg11 w) (Field.offset9 w)
  | 0b1100#4 => decodeJmp (Field.reg8 w)
  | 0b1101#4 => .res
  | 0b1110#4 => .lea (Field.reg11 w) (Field.offset9 w)
  | _ => decodeTrap (Field.vect8 w)

/-- Why a sequence of words or of bits is no instruction: the only reason is its length (rule R53). -/
inductive DecodeError where
  /-- There is no word to decode. -/
  | noWord
  /-- The bits are not those of exactly one word. -/
  | notOneWord
deriving DecidableEq, Repr

/-- A decoder always consumes one word (rule R53). -/
def decodeWords : List Word → Except DecodeError (Instr × List Word)
  | [] => .error .noWord
  | w :: rest => .ok (decode w, rest)

/-- The instruction whose `nbits` bits are `w`, bits above `nbits` being 0. -/
def decodeBits (nbits w : Nat) : Except DecodeError Instr :=
  if nbits = 0 then .error .noWord
  else if 16 < nbits then .error .notOneWord
  else .ok (decode (BitVec.ofNat 16 (w % 2 ^ nbits)))

/-- The host's way into the decoder: the instruction the decoder reads from a table row's bits. -/
def decodeTableWord (nbits w : Nat) : Option Instr :=
  match decodeBits nbits w with
  | .ok i => some i
  | .error _ => none

/-! ### The encoder -/

/-- The layout opcode, `[11:9]`, `[8:6]`, `[5:0]` of rule R56. -/
def packRegReg (op : BitVec 4) (a b : BitVec 3) (low : BitVec 6) : Word := op ++ a ++ b ++ low

/-- The layout opcode, `[11:9]`, `[8:0]` of rule R56. -/
def packOffset9 (op : BitVec 4) (a : BitVec 3) (off : BitVec 9) : Word := op ++ a ++ off

/-- The layout opcode, `[11]`, `[10:0]` of rule R56. -/
def packOffset11 (op : BitVec 4) (flag : BitVec 1) (off : BitVec 11) : Word := op ++ flag ++ off

/-- The layout opcode, `[11:8]`, `[7:0]` of rule R56. -/
def packVect8 (op : BitVec 4) (ignored : BitVec 4) (v : BitVec 8) : Word := op ++ ignored ++ v

/-- The word of an instruction (rule R56). Ignored bits are written as an assembler writes them: 0,
and 111111 for NOT (rule R59). -/
def encode : Instr → Word
  | .addReg dr sr1 sr2 => packRegReg 0b0001 dr.toBits sr1.toBits (0b000#3 ++ sr2.toBits)
  | .addImm dr sr1 imm5 => packRegReg 0b0001 dr.toBits sr1.toBits (0b1#1 ++ imm5)
  | .andReg dr sr1 sr2 => packRegReg 0b0101 dr.toBits sr1.toBits (0b000#3 ++ sr2.toBits)
  | .andImm dr sr1 imm5 => packRegReg 0b0101 dr.toBits sr1.toBits (0b1#1 ++ imm5)
  | .not dr sr => packRegReg 0b1001 dr.toBits sr.toBits 0b111111
  | .br nzp off => packOffset9 0b0000 nzp off
  | .jmp baseR => packRegReg 0b1100 0 baseR.toBits 0
  | .ret => packRegReg 0b1100 0 7 0
  | .jsr off => packOffset11 0b0100 1 off
  | .jsrr baseR => packRegReg 0b0100 0 baseR.toBits 0
  | .ld dr off => packOffset9 0b0010 dr.toBits off
  | .ldi dr off => packOffset9 0b1010 dr.toBits off
  | .ldr dr baseR off => packRegReg 0b0110 dr.toBits baseR.toBits off
  | .lea dr off => packOffset9 0b1110 dr.toBits off
  | .st sr off => packOffset9 0b0011 sr.toBits off
  | .sti sr off => packOffset9 0b1011 sr.toBits off
  | .str sr baseR off => packRegReg 0b0111 sr.toBits baseR.toBits off
  | .trap v => packVect8 0b1111 0 v
  | .getc => packVect8 0b1111 0 0x20
  | .out => packVect8 0b1111 0 0x21
  | .puts => packVect8 0b1111 0 0x22
  | .inp => packVect8 0b1111 0 0x23
  | .putsp => packVect8 0b1111 0 0x24
  | .halt => packVect8 0b1111 0 0x25
  | .rti => packVect8 0b1000 0 0
  | .res => packVect8 0b1101 0 0

/-! ### The opcode table as data -/

/-- A row of spec/opcode_table.json: the words `w` with `w AND mask = value`. -/
structure TableRow where
  mask : Word
  value : Word
  mnemonic : String
deriving DecidableEq, Repr

/-- The rows of spec/opcode_table.json whose words have a second name (their "format" is "alias"). -/
def aliasRows : List TableRow :=
  [⟨0xF1C0, 0xC1C0, "RET"⟩, ⟨0xF0FF, 0xF020, "GETC"⟩, ⟨0xF0FF, 0xF021, "OUT"⟩,
   ⟨0xF0FF, 0xF022, "PUTS"⟩, ⟨0xF0FF, 0xF023, "IN"⟩, ⟨0xF0FF, 0xF024, "PUTSP"⟩,
   ⟨0xF0FF, 0xF025, "HALT"⟩]

/-- The other rows of spec/opcode_table.json. -/
def coreRows : List TableRow :=
  [⟨0xF020, 0x1000, "ADD"⟩, ⟨0xF020, 0x1020, "ADD"⟩, ⟨0xF020, 0x5000, "AND"⟩,
   ⟨0xF020, 0x5020, "AND"⟩, ⟨0xF000, 0x9000, "NOT"⟩, ⟨0xF000, 0x0000, "BR"⟩,
   ⟨0xF000, 0xC000, "JMP"⟩, ⟨0xF800, 0x4800, "JSR"⟩, ⟨0xF800, 0x4000, "JSRR"⟩,
   ⟨0xF000, 0x2000, "LD"⟩, ⟨0xF000, 0xA000, "LDI"⟩, ⟨0xF000, 0x6000, "LDR"⟩,
   ⟨0xF000, 0xE000, "LEA"⟩, ⟨0xF000, 0x3000, "ST"⟩, ⟨0xF000, 0xB000, "STI"⟩,
   ⟨0xF000, 0x7000, "STR"⟩, ⟨0xF000, 0xF000, "TRAP"⟩, ⟨0xF000, 0x8000, "RTI"⟩,
   ⟨0xF000, 0xD000, "RES"⟩]

/-- Does a word belong to a row? -/
def TableRow.covers (r : TableRow) (w : Word) : Bool := w &&& r.mask == r.value

end Sys2Proof
end

