-- ==== Sys2Proof/Machine/State.lean ====
section
/-! DEFINITION. The state of CORE: the tuple (R[0..7], PC, COND, MEM, status, out) of
spec/10_state.md, which rule R27 says is all of it, and beside it the inputs the host has ready
(rules R31 and R32), which are the model's own fields. -/

namespace Sys2Proof.Machine

/-- The condition flag COND: exactly one of three values at every moment (rule R22). -/
inductive Cond where
  | neg
  | zro
  | pos
deriving DecidableEq, Repr

/-- The reasons of rule R91 for which a run ends abnormally. -/
inductive FatalReason where
  /-- RTI_UNSUPPORTED, code 1: opcode 1000. -/
  | rtiUnsupported
  /-- RESERVED_OPCODE, code 2: opcode 1101. -/
  | reservedOpcode
  /-- UNDEFINED_TRAP, code 3: a TRAP selector outside 0x20..0x25. -/
  | undefinedTrap
  /-- STRING_AT_KBSR, code 4: the scan of PUTS or PUTSP reaches 0xFE00. -/
  | stringAtKbsr
deriving DecidableEq, Repr

/-- The run status of rule R25. -/
inductive Status where
  | running
  | halted
  | faulted (reason : FatalReason)
deriving DecidableEq, Repr

/-- The general registers R0 to R7, each one word (rule R14). -/
structure Regs where
  r0 : Word
  r1 : Word
  r2 : Word
  r3 : Word
  r4 : Word
  r5 : Word
  r6 : Word
  r7 : Word
deriving DecidableEq, Repr

/-- One cell of MEM: its 16-bit address, as a number, and the word in it. Memory is addressed by
words and no address names a byte (rules R37 and R38), so a cell here is a word (log entry 3). -/
abbrev MemCell := Nat × Word

/-- MEM (rule R24): the cells that do not read as `Config.unlistedCell`, addresses rising. -/
abbrev Memory := List MemCell

/-- The canonical form: addresses strictly rising and below 65536, and no cell that holds what an
unlisted cell reads as. Equal memories are then equal lists. -/
abbrev Memory.wf (m : Memory) : Prop :=
  m.Pairwise (fun x y => x.1 < y.1) ∧ ∀ c ∈ m, c.1 < 65536 ∧ c.2 ≠ Config.unlistedCell

/-- The state of CORE and the host's inputs to come. -/
structure State where
  /-- R0 to R7 (rule R14). -/
  regs : Regs
  /-- The program counter (rule R17). -/
  pc : Word
  /-- The condition flag (rule R22). -/
  cond : Cond
  /-- Memory, the cells 0xFE00 and 0xFE02 among it (rules R24 and R40). -/
  mem : Memory
  /-- The run status (rule R25). -/
  status : Status
  /-- The bytes written to the output stream, oldest first (rule R26). -/
  out : List Byte
  /-- The model's own: `POLL`, the host's answers to the `HostPending` calls to come, next first
  (decision D8). After them the answers are `Config.pollAnswer`. -/
  polls : List Bool
  /-- The model's own: `CHAR`, the bytes of the `HostRead` calls to come, next first (decision D8). -/
  chars : List Byte
  /-- The model's own: the host supplies no byte after `chars`, ever (rule R32, decision D14). Where
  it is false the bytes after `chars` are `Config.hostByte`. -/
  silent : Bool
  /-- The model's own: how many `HostPending` calls have been answered. -/
  polled : Nat
  /-- The model's own: how many bytes `HostRead` has returned. -/
  taken : Nat
deriving DecidableEq, Repr

/-- Why the machine takes no step. -/
inductive Fault where
  /-- Raised by GETC and IN where the host never supplies a byte: the step blocks and never
  completes (rule R32, decision D14; log entry 13). Safe: the machine does not go on either. -/
  | hostReadBlocks
  /-- Raised by `step` when the status is HALTED: no step leaves it (rules R25 and R30). Safe: the
  machine does not go on either. -/
  | afterHalt
  /-- Raised by `step` when the status is FAULTED: no step leaves it (rules R25 and R92). Safe: the
  machine does not go on either. -/
  | afterFatal (reason : FatalReason)
deriving DecidableEq, Repr

/-- Why an instruction has no meaning here. No meaning of this model raises one. -/
inductive Refusal where
  /-- Raised by an arm of `exec` whose instruction has no meaning yet. Safe: the model stops. -/
  | notModelled (mnemonic : String)
deriving DecidableEq, Repr

/-- The registers at the start of execution: `GPR_INIT(0) .. GPR_INIT(7)` (rule R16). -/
def Regs.ofInit (g : Fin 8 → Word) : Regs :=
  ⟨g 0, g 1, g 2, g 3, g 4, g 5, g 6, g 7⟩

/-- The state at the start of execution (rule R102) for a given `GPR_INIT` and `MEM_INIT`, with a
host of which nothing is known but that it answers (DESIGN CHOICE, log entry 14). -/
def State.resetWith (g : Fin 8 → Word) (memInit : Memory) : State where
  regs := Regs.ofInit g
  pc := Config.startAddress
  cond := .zro
  mem := memInit
  status := .running
  out := []
  polls := []
  chars := []
  silent := false
  polled := 0
  taken := 0

/-- The machine right after reset, no image loaded (rule R102; the registers: log entry 1). -/
def State.reset : State := State.resetWith Config.gprInit []

end Sys2Proof.Machine
end

