-- ==== Sys2Proof/Machine/Flags.lean ====
section
/-! DEFINITION. The condition flag: what a written value makes of COND (rule R20), and COND as the
mask that BR tests (rule R22). -/

namespace Sys2Proof.Machine

/-- The flag of a written value: ZRO for 0, NEG where bit 15 is set, POS otherwise (rule R20). -/
def Cond.ofWord (v : Word) : Cond :=
  if v = 0 then .zro else if v.getLsbD 15 then .neg else .pos

/-- COND one-hot, aligned with the BR condition bits (rule R22, decision D3;
PRESUMED, log entry 7). -/
def Cond.bits : Cond → BitVec 3
  | .neg => 0b100
  | .zro => 0b010
  | .pos => 0b001

/-- `SetCC(v)` (rule R20): a replacement, not an accumulation. -/
def State.setCC (s : State) (v : Word) : State := { s with cond := Cond.ofWord v }

/-- The test of BR: `(instr[11:9] & COND) ≠ 0` (rule R75). -/
def brTaken (nzp : BitVec 3) (c : Cond) : Bool := nzp &&& c.bits != 0

end Sys2Proof.Machine
end

