-- ==== Sys2Proof/Machine/Ops.lean ====
section
/-! DEFINITION. The named operations every meaning is built from: registers (rule R14), the memory
unit with its keyboard poll (rules R41 to R47), the host's three transactions (rules R31 to R33),
raising a fatal condition (rule R92), and entering and leaving a trap (rules R95 and R96). -/

namespace Sys2Proof.Machine

/-! ### Registers -/

/-- `R[i]`. No register is hard-wired (rule R14). -/
def Regs.get (g : Regs) : Reg → Word
  | .r0 => g.r0
  | .r1 => g.r1
  | .r2 => g.r2
  | .r3 => g.r3
  | .r4 => g.r4
  | .r5 => g.r5
  | .r6 => g.r6
  | .r7 => g.r7

/-- `R[i] <- v`. -/
def Regs.set (g : Regs) (i : Reg) (v : Word) : Regs :=
  match i with
  | .r0 => { g with r0 := v }
  | .r1 => { g with r1 := v }
  | .r2 => { g with r2 := v }
  | .r3 => { g with r3 := v }
  | .r4 => { g with r4 := v }
  | .r5 => { g with r5 := v }
  | .r6 => { g with r6 := v }
  | .r7 => { g with r7 := v }

/-- `R[i]` (rule R12). -/
def State.reg (s : State) (i : Reg) : Word := s.regs.get i

/-- `R[i] <- v` (rule R12). -/
def State.setReg (s : State) (i : Reg) (v : Word) : State := { s with regs := s.regs.set i v }

/-- `PC <- target` (rule R12). -/
def State.setPc (s : State) (target : Word) : State := { s with pc := target }

/-- A register write that sets the flags: `R[dr] <- v` and `SetCC(v)` (rule R21). -/
def State.writeResult (s : State) (dr : Reg) (v : Word) : State := (s.setReg dr v).setCC v

/-! ### Stored cells -/

/-- The word in the cell at an address. -/
def Memory.read : Memory → Nat → Word
  | [], _ => Config.unlistedCell
  | c :: m, a => if c.1 = a then c.2 else Memory.read m a

/-- Lists a value in the place its address has in the rising order. -/
def Memory.insert (a : Nat) (v : Word) : Memory → Memory
  | [] => [(a, v)]
  | c :: m =>
    if a < c.1 then (a, v) :: c :: m
    else if a = c.1 then (a, v) :: m
    else c :: Memory.insert a v m

/-- Stores a word in a cell and keeps the canonical form: a value that an unlisted cell reads as
takes the cell off the list. -/
def Memory.write (m : Memory) (a : Nat) (v : Word) : Memory :=
  if v = Config.unlistedCell then m.filter (fun c => c.1 != a) else Memory.insert a v m

/-- `CellRead(a)`: the stored cell, with no side effect (rule R47). -/
def State.cell (s : State) (a : Word) : Word := Memory.read s.mem a.toNat

/-- `MemWrite(a, 16, v)`: an unconditional store, no address special-cased (rule R46). -/
def State.setCell (s : State) (a v : Word) : State := { s with mem := Memory.write s.mem a.toNat v }

/-! ### The host -/

/-- The next byte `HostRead` would return; `none` where it blocks for ever (rule R32). -/
def State.nextByte (s : State) : Option Byte :=
  match s.chars with
  | c :: _ => some c
  | [] => if s.silent then none else some (Config.hostByte s.taken)

/-- The state once `HostRead` has consumed its byte (rule R32). -/
def State.dropByte (s : State) : State := { s with chars := s.chars.tail, taken := s.taken + 1 }

/-- The host's answer to the next `HostPending`: the next one listed, else a free value. -/
def State.pollAnswer (s : State) : Bool :=
  match s.polls with
  | b :: _ => b
  | [] => Config.pollAnswer s.polled

/-- `HostPending` (rule R31): the byte that is ready where the answer is true, `none` where it is
false. A true answer means that a byte is ready, so a host with no byte left answers false (log
entry 2). -/
def State.pendingByte (s : State) : Option Byte := if s.pollAnswer then s.nextByte else none

/-- The state once `HostPending` has answered. -/
def State.dropPoll (s : State) : State := { s with polls := s.polls.tail, polled := s.polled + 1 }

/-- `Output(b)` for each byte of a list, in order (rule R33). -/
def State.output (s : State) (bs : List Byte) : State := { s with out := s.out ++ bs }

/-- `zext_16(b)` (rule R11, decision D9; log entry 11). -/
def zext16 (b : Byte) : Word := b.setWidth 16

/-! ### The memory unit -/

/-- `MemRead(0xFE00, 16)`: polls the keyboard (rule R42, decision D7; log entry 10). -/
def pollKeyboard (s : State) : Word × State :=
  match s.pendingByte with
  | some c =>
    (0x8000, ((s.dropPoll.dropByte).setCell Config.kbdr (zext16 c)).setCell Config.kbsr 0x8000)
  | none => (0x0000, s.dropPoll.setCell Config.kbsr 0x0000)

/-- `MemRead(a, 16)` (rules R41 and R42): the value, and the state after the read. -/
def State.memRead (s : State) (a : Word) : Word × State :=
  if a = Config.kbsr then pollKeyboard s else (s.cell a, s)

/-- The fetch of rule R28: the word at PC through the memory unit, and PC advanced by one. -/
def State.fetch (s : State) : Word × State :=
  ((s.memRead s.pc).1, (s.memRead s.pc).2.setPc (s.pc + 1))

/-! ### Fatal conditions and traps -/

/-- The numeric code of a reason (rule R91, decision D17). -/
def FatalReason.code : FatalReason → Nat
  | .rtiUnsupported => 1
  | .reservedOpcode => 2
  | .undefinedTrap => 3
  | .stringAtKbsr => 4

/-- `raise Fatal(reason)`: the status becomes FAULTED and what the step did before stays (rule R92). -/
def State.raiseFatal (s : State) (reason : FatalReason) : State :=
  { s with status := .faulted reason }

/-- Trap entry: `R7 = PC`, the only value a trap saves (rule R95). -/
def State.enterTrap (s : State) : State := s.setReg .r7 s.pc

/-- Trap return: the routine returns by itself to the instruction after the TRAP, the address that
PC already holds (rule R96). -/
def State.leaveTrap (s : State) : Host.Outcome State Fault Refusal := .next s

end Sys2Proof.Machine
end

