-- ==== Sys2Proof/Machine/Operands.lean ====
section
/-! DEFINITION. Operand forms: sign extension (rule R11), the second operand of ADD and AND (rules R63
and R64) and the effective addresses of rule R67. PC is the address of the instruction plus one. -/

namespace Sys2Proof.Machine

/-- `sext_N(f)` as rule R11 computes it: bits N and up are set where bit N-1 of the field is. -/
def sext {n : Nat} (f : BitVec n) : Word :=
  if f.getLsbD (n - 1) then f.setWidth 16 ||| (0xFFFF#16 <<< n) else f.setWidth 16

/-- PC-relative addressing: `PC + sext_9(instr[8:0])` (rule R67), and BR's target (rule R75). -/
def State.pcOffset9 (s : State) (off : BitVec 9) : Word := s.pc + sext off

/-- The target of JSR: `PC + sext_11(instr[10:0])` (rule R77). -/
def State.pcOffset11 (s : State) (off : BitVec 11) : Word := s.pc + sext off

/-- Base + offset addressing: `R[BaseR] + sext_6(instr[5:0])` (rule R67). -/
def State.baseOffset6 (s : State) (baseR : Reg) (off : BitVec 6) : Word := s.reg baseR + sext off

/-- Indirect addressing: the pointer is read through the memory unit, so the read may poll the
keyboard (rules R44, R67, R69 and R73). The pointer, and the state after its read. -/
def State.pointer (s : State) (off : BitVec 9) : Word × State := s.memRead (s.pcOffset9 off)

end Sys2Proof.Machine
end

