-- ==== Sys2Proof/Machine/Control.lean ====
section
/-! DEFINITION. The control transfers BR, JMP, RET, JSR and JSRR (spec/42_control.md, rules R75 to
R79). None of them writes COND. -/

namespace Sys2Proof.Machine

/-- BR (rule R75). -/
def execBr (nzp : BitVec 3) (off : BitVec 9) (s : State) : Host.Outcome State Fault Refusal :=
  .next (if brTaken nzp s.cond then s.setPc (s.pcOffset9 off) else s)

/-- `PC <- R[BaseR]` (rule R76). -/
def State.jumpTo (s : State) (baseR : Reg) : State := s.setPc (s.reg baseR)

/-- JMP (rule R76). -/
def execJmp (baseR : Reg) (s : State) : Host.Outcome State Fault Refusal := .next (s.jumpTo baseR)

/-- RET: JMP with BaseR = R7 (rules R62 and R76). -/
def execRet (s : State) : Host.Outcome State Fault Refusal := .next (s.jumpTo .r7)

/-- JSR (rule R77): the link and the target both come from PC as the instruction found it. -/
def execJsr (off : BitVec 11) (s : State) : Host.Outcome State Fault Refusal :=
  .next ((s.setReg .r7 s.pc).setPc (s.pcOffset11 off))

/-- JSRR (rule R78): BaseR is read AFTER R7 is written, so `JSRR R7` goes on at the next
instruction. -/
def execJsrr (baseR : Reg) (s : State) : Host.Outcome State Fault Refusal :=
  .next ((s.setReg .r7 s.pc).jumpTo baseR)

end Sys2Proof.Machine
end

