-- ==== Sys2Proof/Machine/DataMovement.lean ====
section
/-! DEFINITION. The data movement instructions LD, LDI, LDR, LEA, ST, STI and STR
(spec/41_data_movement.md, rules R67 to R74). -/

namespace Sys2Proof.Machine

/-- A load of the word at an address into DR, which sets the flags (rules R21 and R67). -/
def State.loadInto (s : State) (dr : Reg) (ea : Word) : State :=
  (s.memRead ea).2.writeResult dr (s.memRead ea).1

/-- LD (rule R68). -/
def execLd (dr : Reg) (off : BitVec 9) (s : State) : Host.Outcome State Fault Refusal :=
  .next (s.loadInto dr (s.pcOffset9 off))

/-- LDI (rule R69): the pointer is read first, then the data, both through the memory unit. -/
def execLdi (dr : Reg) (off : BitVec 9) (s : State) : Host.Outcome State Fault Refusal :=
  .next ((s.pointer off).2.loadInto dr (s.pointer off).1)

/-- LDR (rule R70): BaseR is read before DR is written. -/
def execLdr (dr baseR : Reg) (off : BitVec 6) (s : State) : Host.Outcome State Fault Refusal :=
  .next (s.loadInto dr (s.baseOffset6 baseR off))

/-- LEA (rule R71): the address itself, with no memory access; it sets the flags. -/
def execLea (dr : Reg) (off : BitVec 9) (s : State) : Host.Outcome State Fault Refusal :=
  .next (s.writeResult dr (s.pcOffset9 off))

/-- ST (rule R72). -/
def execSt (sr : Reg) (off : BitVec 9) (s : State) : Host.Outcome State Fault Refusal :=
  .next (s.setCell (s.pcOffset9 off) (s.reg sr))

/-- STI (rule R73): the pointer is read through the memory unit, then SR is stored. -/
def execSti (sr : Reg) (off : BitVec 9) (s : State) : Host.Outcome State Fault Refusal :=
  .next ((s.pointer off).2.setCell (s.pointer off).1 (s.reg sr))

/-- STR (rule R74). -/
def execStr (sr baseR : Reg) (off : BitVec 6) (s : State) : Host.Outcome State Fault Refusal :=
  .next (s.setCell (s.baseOffset6 baseR off) (s.reg sr))

end Sys2Proof.Machine
end

