-- ==== Sys2Proof/Machine/Fatal.lean ====
section
/-! DEFINITION. The fatal opcodes RTI and RES (spec/44_fatal.md, rules R89 and R90). Their effect is to
raise a fatal condition, which the spec describes: the status becomes FAULTED and nothing else
changes. -/

namespace Sys2Proof.Machine

/-- RTI (rule R89): always Fatal(RTI_UNSUPPORTED). -/
def execRti (s : State) : Host.Outcome State Fault Refusal := .next (s.raiseFatal .rtiUnsupported)

/-- RES (rule R90): always Fatal(RESERVED_OPCODE). -/
def execRes (s : State) : Host.Outcome State Fault Refusal := .next (s.raiseFatal .reservedOpcode)

end Sys2Proof.Machine
end

