-- ==== Sys2Proof/Machine/Trap.lean ====
section
/-! DEFINITION. TRAP and the six trap routines (spec/43_trap.md, rules R80 to R88). The routines are
built in and run inside the step of the TRAP that selects them (rule R87); each is written here for
the state that trap entry leaves. -/

namespace Sys2Proof.Machine

/-- `IN_PROMPT` (rule R84, decision D10): left open by the spec, so a free value. -/
def inPrompt : List Byte := Config.inPrompt

/-- `HALT_MESSAGE` (rule R86, decision D12): empty (log entry 6). -/
def haltMessage : List Byte := []

/-- The end of GETC and of IN: the byte read goes to R0 and sets the flags (rules R81 and R84). -/
def State.storeChar (s : State) (c : Byte) : State := s.writeResult .r0 (zext16 c)

/-- GETC (rule R81): reads one character, without echo; blocks while the host supplies none. -/
def routineGetc (s : State) : Host.Outcome State Fault Refusal :=
  match s.nextByte with
  | some c => (s.dropByte.storeChar c).leaveTrap
  | none => .fault .hostReadBlocks

/-- OUT (rule R82): writes `R0[7:0]`. -/
def routineOut (s : State) : Host.Outcome State Fault Refusal :=
  (s.output [(s.reg .r0).setWidth 8]).leaveTrap

/-- What PUTS writes for a non-zero word: its low byte (rule R83). -/
def putsBytes (w : Word) : List Byte := [w.extractLsb 7 0]

/-- What PUTSP writes for a non-zero word: its low byte, then its high byte if that is not zero (rule
R85). -/
def putspBytes (w : Word) : List Byte :=
  if w.extractLsb 15 8 = 0#8 then [w.extractLsb 7 0] else [w.extractLsb 7 0, w.extractLsb 15 8]

/-- The scan loop of PUTS and PUTSP (rules R83 and R85) from the address `a`, which lies `d` words
before 0xFE00 (modulo 65536): the bytes written, and whether the scan reached 0xFE00. -/
def scanString (bytesOf : Word → List Byte) (m : Memory) : Nat → Word → List Byte × Bool
  | 0, _ => ([], true)
  | d + 1, a =>
    if Memory.read m a.toNat = 0 then ([], false)
    else
      (bytesOf (Memory.read m a.toNat) ++ (scanString bytesOf m d (a + 1)).1,
        (scanString bytesOf m d (a + 1)).2)

/-- The scan from `a` to its end: `d` is the distance from `a` to 0xFE00. -/
def scanFrom (bytesOf : Word → List Byte) (m : Memory) (a : Word) : List Byte × Bool :=
  scanString bytesOf m (Config.kbsr - a).toNat a

/-- What a string routine does: writes the bytes, and is fatal where the scan reached 0xFE00 (rules
R83, R85 and R92, decision D11; log entry 8). -/
def State.writeString (s : State) (scan : List Byte × Bool) : State :=
  if scan.2 then (s.output scan.1).raiseFatal .stringAtKbsr else s.output scan.1

/-- PUTS (rule R83): one character a word. -/
def routinePuts (s : State) : Host.Outcome State Fault Refusal :=
  (s.writeString (scanFrom putsBytes s.mem (s.reg .r0))).leaveTrap

/-- PUTSP (rule R85): two characters a word. -/
def routinePutsp (s : State) : Host.Outcome State Fault Refusal :=
  (s.writeString (scanFrom putspBytes s.mem (s.reg .r0))).leaveTrap

/-- IN (rule R84): writes the prompt, reads one character, echoes it; blocks while the host supplies
none. -/
def routineIn (s : State) : Host.Outcome State Fault Refusal :=
  match s.nextByte with
  | some c => ((((s.output inPrompt).dropByte).output [c]).storeChar c).leaveTrap
  | none => .fault .hostReadBlocks

/-- HALT (rule R86): writes `HALT_MESSAGE`, flushes, and stops the machine. The flush changes nothing
in CORE: what the host has received is `HostReceived` of Safety.lean. -/
def routineHalt (s : State) : Host.Outcome State Fault Refusal :=
  .next { s.output haltMessage with status := .halted }

/-- A TRAP whose selector names no routine is fatal, after R7 is written (rule R88, decision D5;
log entry 8). -/
def routineUndefined (s : State) : Host.Outcome State Fault Refusal :=
  .next (s.raiseFatal .undefinedTrap)

/-- The dispatch of rule R80 on the selector. -/
def trapRoutine (v : BitVec 8) (s : State) : Host.Outcome State Fault Refusal :=
  if v = 0x20#8 then routineGetc s
  else if v = 0x21#8 then routineOut s
  else if v = 0x22#8 then routinePuts s
  else if v = 0x23#8 then routineIn s
  else if v = 0x24#8 then routinePutsp s
  else if v = 0x25#8 then routineHalt s
  else routineUndefined s

/-- TRAP (rule R80). -/
def execTrap (v : BitVec 8) (s : State) : Host.Outcome State Fault Refusal :=
  trapRoutine v s.enterTrap

/-- GETC = TRAP x20 (rules R62 and R81). -/
def execGetc (s : State) : Host.Outcome State Fault Refusal := routineGetc s.enterTrap

/-- OUT = TRAP x21 (rules R62 and R82). -/
def execOut (s : State) : Host.Outcome State Fault Refusal := routineOut s.enterTrap

/-- PUTS = TRAP x22 (rules R62 and R83). -/
def execPuts (s : State) : Host.Outcome State Fault Refusal := routinePuts s.enterTrap

/-- IN = TRAP x23 (rules R62 and R84). -/
def execIn (s : State) : Host.Outcome State Fault Refusal := routineIn s.enterTrap

/-- PUTSP = TRAP x24 (rules R62 and R85). -/
def execPutsp (s : State) : Host.Outcome State Fault Refusal := routinePutsp s.enterTrap

/-- HALT = TRAP x25 (rules R62 and R86). -/
def execHalt (s : State) : Host.Outcome State Fault Refusal := routineHalt s.enterTrap

end Sys2Proof.Machine
end

