-- ==== Sys2Proof/Machine/Dispatch.lean ====
section
/-! DEFINITION. The executor: one arm per constructor of `Instr` (rule R55). The state it is given is
the one after the fetch, with PC at the instruction plus one (rule R28). -/

namespace Sys2Proof.Machine

def exec (i : Instr) (s : State) : Host.Outcome State Fault Refusal :=
  match i with
  | .addReg dr sr1 sr2 => Sys2Proof.Machine.execAddReg dr sr1 sr2 s
  | .addImm dr sr1 imm5 => Sys2Proof.Machine.execAddImm dr sr1 imm5 s
  | .andReg dr sr1 sr2 => Sys2Proof.Machine.execAndReg dr sr1 sr2 s
  | .andImm dr sr1 imm5 => Sys2Proof.Machine.execAndImm dr sr1 imm5 s
  | .not dr sr => Sys2Proof.Machine.execNot dr sr s
  | .br nzp off => Sys2Proof.Machine.execBr nzp off s
  | .jmp baseR => Sys2Proof.Machine.execJmp baseR s
  | .ret => Sys2Proof.Machine.execRet s
  | .jsr off => Sys2Proof.Machine.execJsr off s
  | .jsrr baseR => Sys2Proof.Machine.execJsrr baseR s
  | .ld dr off => Sys2Proof.Machine.execLd dr off s
  | .ldi dr off => Sys2Proof.Machine.execLdi dr off s
  | .ldr dr baseR off => Sys2Proof.Machine.execLdr dr baseR off s
  | .lea dr off => Sys2Proof.Machine.execLea dr off s
  | .st sr off => Sys2Proof.Machine.execSt sr off s
  | .sti sr off => Sys2Proof.Machine.execSti sr off s
  | .str sr baseR off => Sys2Proof.Machine.execStr sr baseR off s
  | .trap vect8 => Sys2Proof.Machine.execTrap vect8 s
  | .getc => Sys2Proof.Machine.execGetc s
  | .out => Sys2Proof.Machine.execOut s
  | .puts => Sys2Proof.Machine.execPuts s
  | .inp => Sys2Proof.Machine.execIn s
  | .putsp => Sys2Proof.Machine.execPutsp s
  | .halt => Sys2Proof.Machine.execHalt s
  | .rti => Sys2Proof.Machine.execRti s
  | .res => Sys2Proof.Machine.execRes s

end Sys2Proof.Machine
end

