-- ==== Sys2Proof/Machine/Step.lean ====
section
/-! DEFINITION. One step of CORE (rule R28): taken only while the status is RUNNING; fetch, PC + 1,
decode, execute. It ends in a next state (which may be HALTED or FAULTED), or it is not taken: a
fault (log entry 12). No step is refused. -/

namespace Sys2Proof.Machine

/-- One step (rules R28 and R30). -/
def step (s : State) : Host.Outcome State Fault Refusal :=
  match s.status with
  | .running => exec (decode s.fetch.1) s.fetch.2
  | .halted => .fault .afterHalt
  | .faulted reason => .fault (.afterFatal reason)

/-- The state with an instruction's word in the cell at PC, where `step` fetches it (for a PC other
than 0xFE00, whose reads are computed and not stored: rule R42). -/
def State.withFetchWord (s : State) (nbits w : Nat) : State :=
  s.setCell s.pc (BitVec.ofNat 16 (w % 2 ^ nbits))

end Sys2Proof.Machine
end

