-- ==== Sys2Proof/Machine/Loader.lean ====
section
/-! DEFINITION. How `MEM_INIT` comes about (rules R24, R34 and R104). The loader is software around
CORE, outside the scope of rule R6: it is here so that a state with a program in it can be named. -/

namespace Sys2Proof.Machine

/-- An image is a stream of 16-bit big-endian words (rule R104); `none` for a stream that is no whole
number of words. -/
def wordsOfBytes : List Byte → Option (List Word)
  | [] => some []
  | [_] => none
  | hi :: lo :: rest => (wordsOfBytes rest).map ((hi ++ lo) :: ·)

/-- Places words one after the other from an address (rule R104). Beyond address 0xFFFF it does what
`LOADER_OVERFLOW` says, which the spec leaves open (decision D16). -/
def placeWords : List Word → Nat → Memory → Option Memory
  | [], _, m => some m
  | w :: ws, a, m =>
    if a < 65536 then placeWords ws (a + 1) (Memory.write m a w)
    else
      match Config.loaderOverflow with
      | .wrap => placeWords ws (a + 1) (Memory.write m (a % 65536) w)
      | .truncate => some m
      | .fail => none

/-- Loads one image: its first word is the origin (rule R104); `none` where it does not load. -/
def loadImage (image : List Byte) (m : Memory) : Option Memory :=
  match wordsOfBytes image with
  | some (origin :: ws) => placeWords ws origin.toNat m
  | _ => none

/-- Loads images in argument order, later ones over earlier ones (rule R104). -/
def loadImages : List (List Byte) → Memory → Option Memory
  | [], m => some m
  | image :: images, m => (loadImage image m).bind (loadImages images)

/-- The state in which a run on these images starts (rules R17, R24 and R102); `none` where an image
does not load, and then nothing runs (rule R105). -/
def State.boot (images : List (List Byte)) : Option State :=
  (loadImages images []).map (State.resetWith Config.gprInit)

end Sys2Proof.Machine
end

