-- ==== Sys2Proof/Safety.lean ====
section
/-! DEFINITION. The terms that claims are stated in: what a step leaves unchanged, which registers and
flags an instruction may write, what the host has received, and the invariant of the memory. -/

namespace Sys2Proof.Machine

/-! ### Frames -/

/-- Every register but those listed reads as before. -/
def SameRegsBut (ds : List Reg) (s t : State) : Prop := ∀ r, r ∉ ds → t.reg r = s.reg r

/-- Every memory cell but those listed holds what it held. -/
def SameCellsBut (as : List Word) (s t : State) : Prop := ∀ a, a ∉ as → t.cell a = s.cell a

/-- The run status and the output stream are as before. -/
def SameRun (s t : State) : Prop := t.status = s.status ∧ t.out = s.out

/-- No host answer and no host byte has been consumed. -/
def SameHost (s t : State) : Prop :=
  t.polls = s.polls ∧ t.chars = s.chars ∧ t.silent = s.silent ∧ t.polled = s.polled ∧
    t.taken = s.taken

/-- A value went to DR and set the flags, and nothing else changed. -/
def WroteResult (s t : State) (dr : Reg) (v : Word) : Prop :=
  t.reg dr = v ∧ SameRegsBut [dr] s t ∧ t.cond = Cond.ofWord v ∧ t.pc = s.pc ∧
    SameCellsBut [] s t ∧ SameRun s t ∧ SameHost s t

/-- A word read through the memory unit went to DR and set the flags; memory and the host's inputs are
as the read left them, and nothing else changed. `read` is the word read and the state after it. -/
def LoadedResult (s t : State) (dr : Reg) (read : Word × State) : Prop :=
  t.reg dr = read.1 ∧ SameRegsBut [dr] s t ∧ t.cond = Cond.ofWord read.1 ∧ t.pc = s.pc ∧
    SameCellsBut [] read.2 t ∧ SameRun s t ∧ SameHost read.2 t

/-- A word went to one cell, and nothing else changed. -/
def WroteCell (s t : State) (a v : Word) : Prop :=
  t.cell a = v ∧ SameCellsBut [a] s t ∧ SameRegsBut [] s t ∧ t.cond = s.cond ∧ t.pc = s.pc ∧
    SameRun s t ∧ SameHost s t

/-- R7 holds the address PC holds, PC is as it was, and no register but R7 and those listed, no memory
cell and no poll has changed: what every trap does (rules R80 and R87). -/
def TrapFrame (ds : List Reg) (s t : State) : Prop :=
  t.reg .r7 = s.pc ∧ t.pc = s.pc ∧ SameRegsBut (.r7 :: ds) s t ∧ SameCellsBut [] s t ∧
    t.polls = s.polls ∧ t.polled = s.polled ∧ t.silent = s.silent

/-! ### What an instruction may write -/

/-- The register whose new value sets the flags, if the instruction sets them (rule R21). -/
def flagRegister : Instr → Option Reg
  | .addReg dr _ _ => some dr
  | .addImm dr _ _ => some dr
  | .andReg dr _ _ => some dr
  | .andImm dr _ _ => some dr
  | .not dr _ => some dr
  | .br _ _ => none
  | .jmp _ => none
  | .ret => none
  | .jsr _ => none
  | .jsrr _ => none
  | .ld dr _ => some dr
  | .ldi dr _ => some dr
  | .ldr dr _ _ => some dr
  | .lea dr _ => some dr
  | .st _ _ => none
  | .sti _ _ => none
  | .str _ _ _ => none
  | .trap v => if v = 0x20#8 ∨ v = 0x23#8 then some .r0 else none
  | .getc => some .r0
  | .out => none
  | .puts => none
  | .inp => some .r0
  | .putsp => none
  | .halt => none
  | .rti => none
  | .res => none

/-- JSR, JSRR and the TRAP words: they write the return address to R7 (rule R15). -/
def linksR7 : Instr → Bool
  | .jsr _ => true
  | .jsrr _ => true
  | .trap _ => true
  | .getc => true
  | .out => true
  | .puts => true
  | .inp => true
  | .putsp => true
  | .halt => true
  | .addReg _ _ _ => false
  | .addImm _ _ _ => false
  | .andReg _ _ _ => false
  | .andImm _ _ _ => false
  | .not _ _ => false
  | .br _ _ => false
  | .jmp _ => false
  | .ret => false
  | .ld _ _ => false
  | .ldi _ _ => false
  | .ldr _ _ _ => false
  | .lea _ _ => false
  | .st _ _ => false
  | .sti _ _ => false
  | .str _ _ _ => false
  | .rti => false
  | .res => false

/-- The registers an instruction may write: its DR, R7 for JSR, JSRR and TRAP, R0 for GETC and IN
(rule R15). -/
def writtenRegs (i : Instr) : List Reg :=
  (flagRegister i).toList ++ (if linksR7 i then [.r7] else [])

/-- The address an instruction stores to, if it stores: ST, STI and STR alone do (rules R72 to R74). The
state is the one after the fetch. -/
def storeAddress : Instr → State → Option Word
  | .st _ off, s => some (s.pcOffset9 off)
  | .sti _ off, s => some (s.pointer off).1
  | .str _ baseR off, s => some (s.baseOffset6 baseR off)
  | .addReg _ _ _, _ => none
  | .addImm _ _ _, _ => none
  | .andReg _ _ _, _ => none
  | .andImm _ _ _, _ => none
  | .not _ _, _ => none
  | .br _ _, _ => none
  | .jmp _, _ => none
  | .ret, _ => none
  | .jsr _, _ => none
  | .jsrr _, _ => none
  | .ld _ _, _ => none
  | .ldi _ _, _ => none
  | .ldr _ _ _, _ => none
  | .lea _ _, _ => none
  | .trap _, _ => none
  | .getc, _ => none
  | .out, _ => none
  | .puts, _ => none
  | .inp, _ => none
  | .putsp, _ => none
  | .halt, _ => none
  | .rti, _ => none
  | .res, _ => none

/-- BR, JMP, RET, JSR and JSRR: the only instructions that change PC after the fetch (rule R19). -/
def changesPc (i : Instr) : Prop :=
  (∃ nzp off, i = .br nzp off) ∨ (∃ b, i = .jmp b) ∨ i = .ret ∨ (∃ off, i = .jsr off) ∨
    ∃ b, i = .jsrr b

/-- TRAP and its routines' names. -/
def isTrap (i : Instr) : Prop :=
  (∃ v, i = .trap v) ∨ i = .getc ∨ i = .out ∨ i = .puts ∨ i = .inp ∨ i = .putsp ∨ i = .halt

/-- GETC and IN, under either of their names: they read a byte from the host (rule R32). -/
def readsHost (i : Instr) : Prop := i = .getc ∨ i = .inp ∨ i = .trap 0x20 ∨ i = .trap 0x23

/-- OUT, PUTS, IN and PUTSP, under either of their names: they append to the output (rule R26). -/
def writesOutput (i : Instr) : Prop :=
  i = .out ∨ i = .puts ∨ i = .inp ∨ i = .putsp ∨ i = .trap 0x21 ∨ i = .trap 0x22 ∨
    i = .trap 0x23 ∨ i = .trap 0x24

/-- The bits of a word that its format ignores (rule R59). -/
def ignoredBits (w : Word) : Word :=
  match Field.opcode w with
  | 0b0001#4 => if Field.immMode w then 0 else 0x0018
  | 0b0101#4 => if Field.immMode w then 0 else 0x0018
  | 0b1001#4 => 0x003F
  | 0b1100#4 => 0x0E3F
  | 0b0100#4 => if Field.longMode w then 0 else 0x063F
  | 0b1111#4 => 0x0F00
  | 0b1000#4 => 0x0FFF
  | 0b1101#4 => 0x0FFF
  | _ => 0

/-! ### Runs -/

/-- The invariant of every step: memory keeps its canonical form. -/
def State.Inv (s : State) : Prop := Memory.wf s.mem

/-- The bytes the host may have received: all of `out` once HALT has flushed it, otherwise some prefix
of it (rules R33, R86 and R92, decision D13; log entry 17). -/
def HostReceived (s : State) (bs : List Byte) : Prop :=
  match s.status with
  | .halted => bs = s.out
  | .running => bs <+: s.out
  | .faulted _ => bs <+: s.out

/-- The next step stores nothing to the cell, and does not poll where the cell is the keyboard data
register, which a poll may write (rules R42, R46 and R51). -/
def LeavesCell (a : Word) (s : State) : Prop :=
  storeAddress (decode s.fetch.1) s.fetch.2 ≠ some a ∧
    (a = Config.kbdr → ∀ t, step s = .next t → t.polled = s.polled)

/-- A run is safe for `k` steps if none of them ends it abnormally (rule R107). -/
def SafeFor (k : Nat) (s : State) : Prop :=
  ∀ j ≤ k, ∀ t r, Sys2Proof.core.run j s = .next t → t.status ≠ .faulted r

/-- The next states of two outcomes are related, and where one machine stops so does the other, for
the same reason. -/
def OutcomeRel (rel : State → State → Prop) :
    Host.Outcome State Fault Refusal → Host.Outcome State Fault Refusal → Prop
  | .next s, .next t => rel s t
  | .fault f, .fault g => f = g
  | .refused a, .refused b => a = b
  | _, _ => False

/-- The outcome with its next state, if it has one, changed by a function. -/
def mapNext (f : State → State) :
    Host.Outcome State Fault Refusal → Host.Outcome State Fault Refusal
  | .next s => .next (f s)
  | .fault r => .fault r
  | .refused r => .refused r

/-- Two states that differ at most in the stored cell 0xFE00. -/
def SameButKbsrCell (s t : State) : Prop :=
  t = { s with mem := t.mem } ∧ SameCellsBut [Config.kbsr] s t

end Sys2Proof.Machine
end

