-- ==== Sys2Proof/Certificates/Slice0/Obligations.lean ====
section
/-! DEFINITION. What is claimed of the model, each statement a Prop. `exec` runs an instruction in the
state after its fetch, so `s.pc` is the address of the instruction plus one (rule R28). -/

open Sys2Proof Sys2Proof.Machine

/-! ### Encoding -/

/-- One example word for each constructor decodes to it, the words taken from the rules R63 to R90 and
from spec/95_test_vectors.md. The encoding is the spec's decision D2 (PRESUMED, log entry 7). -/
def Obligations.DecodesTheSpecsWords : Prop :=
  decode 0x107D = .addImm .r0 .r1 (-3) ∧ decode 0x1241 = .addReg .r1 .r1 .r1 ∧
  decode 0x5042 = .andReg .r0 .r1 .r2 ∧ decode 0x506F = .andImm .r0 .r1 15 ∧
  decode 0x96BF = .not .r3 .r2 ∧
  decode 0x2402 = .ld .r2 2 ∧ decode 0xA803 = .ldi .r4 3 ∧ decode 0x6440 = .ldr .r2 .r1 0 ∧
  decode 0xE205 = .lea .r1 5 ∧
  decode 0x3604 = .st .r3 4 ∧ decode 0xB001 = .sti .r0 1 ∧ decode 0x7641 = .str .r3 .r1 1 ∧
  decode 0x03FD = .br 0b001 (-3) ∧ decode 0xC180 = .jmp .r6 ∧ decode 0xC1C0 = .ret ∧
  decode 0x4802 = .jsr 2 ∧ decode 0x4080 = .jsrr .r2 ∧
  decode 0xF020 = .getc ∧ decode 0xF021 = .out ∧ decode 0xF022 = .puts ∧ decode 0xF023 = .inp ∧
  decode 0xF024 = .putsp ∧ decode 0xF125 = .halt ∧ decode 0xF026 = .trap 0x26 ∧
  decode 0x8000 = .rti ∧ decode 0xD123 = .res

/-- Decoding the word of a well-formed instruction gives the instruction back, with every operand at
every value (rules R56 to R58). The encoding is the spec's decision D2 (PRESUMED, log entry 7). -/
def Obligations.DecodeEncodeRoundTrip : Prop :=
  ∀ i : Instr, WellFormed i = true → decode (encode i) = i

/-- Decoding is total: every word decodes to a well-formed instruction, and the word the encoder
writes for that instruction differs from it in ignored bits only (rules R54 and R59). The encoding
is the spec's decision D2 (PRESUMED, log entry 7). -/
def Obligations.EveryWordDecodesWellFormed : Prop :=
  ∀ w : Word, WellFormed (decode w) = true ∧
    encode (decode w) &&& ~~~ ignoredBits w = w &&& ~~~ ignoredBits w

/-- The decoder follows spec/opcode_table.json: an alias row that covers a word names it, and
otherwise the core row that covers it does. The encoding is the spec's decision D2 (PRESUMED, log
entry 7). -/
def Obligations.DecoderFollowsOpcodeTable : Prop :=
  ∀ w : Word, ((aliasRows ++ coreRows).find? (·.covers w)).map (·.mnemonic) =
    some (decode w).mnemonic

/-- Every one of the 65536 words is covered by exactly one core row of the opcode table (rule R54).
The encoding is the spec's decision D2 (PRESUMED, log entry 7). -/
def Obligations.EveryWordHasOneCoreRow : Prop :=
  ∀ w : Word, (coreRows.filter (·.covers w)).length = 1

/-- Rule R59: whatever stands in the bits a word's format ignores, the word decodes the same; an
assembler's word holds 0 in them, and 111111 for NOT. The encoding is the spec's decision D2
(PRESUMED, log entry 7). -/
def Obligations.IgnoredBitsDoNotMatter : Prop :=
  (∀ w x : Word, decode ((w &&& ~~~ ignoredBits w) ||| (x &&& ignoredBits w)) = decode w) ∧
  (∀ dr sr, encode (.not dr sr) &&& ignoredBits (encode (.not dr sr)) = 0x003F) ∧
  (∀ i : Instr, (∀ dr sr, i ≠ .not dr sr) → encode i &&& ignoredBits (encode i) = 0)

/-- Rule R11: the four sign extensions, as the rule computes them and as two's complement reads them,
with their ranges; and the zero extension of a byte. -/
def Obligations.SignExtensionRule : Prop :=
  (∀ n ∈ [5, 6, 9, 11], ∀ f : BitVec n,
    (f.getLsbD (n - 1) = true → sext f = f.setWidth 16 ||| (0xFFFF#16 <<< n)) ∧
    (f.getLsbD (n - 1) = false → sext f = f.setWidth 16) ∧
    (sext f).toInt = f.toInt ∧
    -(2 : Int) ^ (n - 1) ≤ (sext f).toInt ∧ (sext f).toInt < (2 : Int) ^ (n - 1)) ∧
  (∀ b : Byte, zext16 b = 0x00#8 ++ b)

/-! ### Flags, registers, memory, host -/

/-- Rule R20: SetCC replaces COND by the flag of the value, which is the sign of the value read as
two's complement, and changes nothing else. -/
def Obligations.FlagRule : Prop :=
  ∀ (s : State) (v : Word),
    s.setCC v =
      { s with cond := if v = 0 then .zro else if v.getLsbD 15 = true then .neg else .pos } ∧
    ((s.setCC v).cond = .zro ↔ v.toInt = 0) ∧ ((s.setCC v).cond = .neg ↔ v.toInt < 0) ∧
    ((s.setCC v).cond = .pos ↔ 0 < v.toInt)

/-- Rule R14: every register holds what was written to it, and no register is another's alias. -/
def Obligations.RegistersAreIndependent : Prop :=
  ∀ (s : State) (i : Reg) (v : Word),
    (s.setReg i v).reg i = v ∧ ∀ j, j ≠ i → (s.setReg i v).reg j = s.reg j

/-- Rule R41: a read of any address but 0xFE00, 0xFE02 included, returns the stored cell and changes
nothing. -/
def Obligations.PlainReadReturnsStoredCell : Prop :=
  ∀ (s : State) (a : Word), a ≠ 0xFE00 → s.memRead a = (s.cell a, s)

/-- Rule R42: a read of 0xFE00 polls the keyboard. Where the host has input pending it latches one
consumed byte into 0xFE02 and returns 0x8000; otherwise it returns 0 and leaves 0xFE02 untouched.
The stored cell 0xFE00 takes the returned value, and no other cell, no register, flag, status or
output changes. Bits 14:0 of the value and the stored cell 0xFE00 are the spec's decision D7, the
zeros above the byte D9 (log entries 10 and 11). -/
def Obligations.KeyboardPollLatchesOrAnswersZero : Prop :=
  ∀ s : State,
    (∀ c, s.pendingByte = some c →
      ∃ t, s.memRead 0xFE00 = (0x8000, t) ∧ t.cell 0xFE02 = 0x00#8 ++ c ∧
        t.cell 0xFE00 = 0x8000 ∧ SameCellsBut [0xFE00, 0xFE02] s t ∧
        t = { s with mem := t.mem, polls := s.polls.tail, polled := s.polled + 1,
                     chars := s.chars.tail, taken := s.taken + 1 }) ∧
    (s.pendingByte = none →
      ∃ t, s.memRead 0xFE00 = (0x0000, t) ∧ t.cell 0xFE00 = 0x0000 ∧
        SameCellsBut [0xFE00] s t ∧
        t = { s with mem := t.mem, polls := s.polls.tail, polled := s.polled + 1 })

/-- Rule R46: a store to any address, 0xFE00 and 0xFE02 included, changes that cell and nothing else;
the next read of 0xFE00 does not see a store there, and the next read of 0xFE02 does. -/
def Obligations.StoreIsUnconditional : Prop :=
  (∀ (s : State) (a v : Word), WroteCell s (s.setCell a v) a v) ∧
  (∀ (s : State) (v : Word), ((s.setCell 0xFE00 v).memRead 0xFE00).1 = (s.memRead 0xFE00).1) ∧
  (∀ (s : State) (v : Word), ((s.setCell 0xFE02 v).memRead 0xFE02).1 = v)

/-- Two polls in a row: with input pending they latch two successive bytes; with none they both yield
0 and leave 0xFE02 untouched (rule R44). The zeros above the bytes are the spec's decision D9 (log
entry 11). -/
def Obligations.SuccessivePolls : Prop :=
  (∀ (s : State) (c d : Byte) (ps : List Bool) (cs : List Byte),
    s.polls = true :: true :: ps → s.chars = c :: d :: cs →
      (s.memRead 0xFE00).2.cell 0xFE02 = 0x00#8 ++ c ∧
      ((s.memRead 0xFE00).2.memRead 0xFE00).2.cell 0xFE02 = 0x00#8 ++ d ∧
      ((s.memRead 0xFE00).2.memRead 0xFE00).2.chars = cs) ∧
  (∀ (s : State) (ps : List Bool), s.polls = false :: false :: ps →
      (s.memRead 0xFE00).1 = 0 ∧ ((s.memRead 0xFE00).2.memRead 0xFE00).1 = 0 ∧
      ((s.memRead 0xFE00).2.memRead 0xFE00).2.cell 0xFE02 = s.cell 0xFE02)

/-- The host's answers (rules R31 and R32): a true poll answer has the byte ready that the next read
returns, the listed answers and bytes come first, and a read blocks exactly where the host
supplies no further byte. That a host with no byte left answers a poll false is the model's choice
(log entry 2). -/
def Obligations.HostAnswersAsListed : Prop :=
  ∀ s : State,
    (∀ c, s.pendingByte = some c → s.nextByte = some c) ∧
    (∀ c cs, s.chars = c :: cs → s.nextByte = some c) ∧
    (∀ ps, s.polls = false :: ps → s.pendingByte = none) ∧
    (∀ ps, s.polls = true :: ps → s.pendingByte = s.nextByte) ∧
    (s.nextByte = none ↔ s.chars = [] ∧ s.silent = true)

/-- Rule R67: the three effective-address computations, modulo 65536; none changes a register. -/
def Obligations.AddressingModes : Prop :=
  (∀ (s : State) (off : BitVec 9), s.pcOffset9 off = s.pc + off.signExtend 16) ∧
  (∀ (s : State) (off : BitVec 9),
    s.pointer off = s.memRead (s.pc + off.signExtend 16) ∧ (s.pointer off).2.regs = s.regs) ∧
  (∀ (s : State) (b : Reg) (off : BitVec 6),
    s.baseOffset6 b off = s.reg b + off.signExtend 16)

/-- The memory of the reset state is canonical. The form is the model's choice (log entry 3). -/
def Obligations.MemoryCanonicalAtReset : Prop := State.reset.Inv

/-- Every step keeps the memory canonical: addresses rising and within the 65536 cells of rule R37, no
cell listed that reads as an unlisted one. The form is the model's choice (log entry 3). -/
def Obligations.StepKeepsMemoryCanonical : Prop :=
  ∀ s t : State, s.Inv → step s = .next t → t.Inv

/-- Canonical memories whose 65536 cells hold the same words are the same data. The form of the memory
is the model's choice (log entry 3). -/
def Obligations.CanonicalMemoriesAreDeterminedByTheirCells : Prop :=
  ∀ m m' : Memory, Memory.wf m → Memory.wf m' →
    (∀ a : Word, Memory.read m a.toNat = Memory.read m' a.toNat) → m = m'

/-! ### The step -/

/-- A store is seen by a fetch of its cell, whatever is stored elsewhere afterwards; and a fetch of a
cell finds after any run of steps what it found before, if none of the steps stores to the cell or,
for the cell 0xFE02, polls the keyboard (rules R42 and R51). The cell 0xFE00 is computed and not
fetched. -/
def Obligations.FetchSeesTheLatestStore : Prop :=
  (∀ (s : State) (a v : Word) (stores : List (Word × Word)), a ≠ 0xFE00 → (∀ c ∈ stores, c.1 ≠ a) →
    (((stores.foldl (fun u c => u.setCell c.1 c.2) (s.setCell a v)).setPc a).fetch).1 = v) ∧
  (∀ (k : Nat) (s t : State) (a : Word), a ≠ 0xFE00 →
    (∀ j < k, ∀ u, Sys2Proof.core.run j s = .next u → LeavesCell a u) →
    Sys2Proof.core.run k s = .next t →
      ((t.setPc a).fetch).1 = ((s.setPc a).fetch).1)

/-- Rule R28: a step is taken only when the status is RUNNING; it reads the word at PC through the
memory unit, advances PC by one modulo 65536, and runs the instruction the word decodes to. -/
def Obligations.StepRunsTheDecodedInstruction : Prop :=
  (∀ s : State, s.status = .running →
    step s = exec (decode (s.memRead s.pc).1) { (s.memRead s.pc).2 with pc := s.pc + 1 }) ∧
  (∀ s t : State, s.status ≠ .running → step s ≠ .next t)

/-- A word placed in the cell at PC is the instruction the next step runs. The placing of the word is
the model's (log entry 15). -/
def Obligations.PlacedWordRuns : Prop :=
  ∀ (s : State) (w : Nat), s.status = .running → s.pc ≠ 0xFE00 → w < 65536 →
    ∃ i, decodeTableWord 16 w = some i ∧
      step (s.withFetchWord 16 w) = exec i ((s.setCell s.pc (BitVec.ofNat 16 w)).setPc (s.pc + 1))

/-- Rule R30: a running machine completes its step (FAULTED is among the states a step ends in) or
blocks, in GETC or IN alone and only where the host supplies no further byte; a machine that is
HALTED or FAULTED takes no step. No step is refused. That the step is a fault where it blocks is
the model's choice (log entry 13), and so is the fault after the end of a run (log entry 12). -/
def Obligations.StepCompletesOrBlocks : Prop :=
  (∀ s : State, s.status = .running →
    (∃ t, step s = .next t) ∨
    (step s = .fault .hostReadBlocks ∧ s.fetch.2.chars = [] ∧ s.silent = true ∧
      (decode s.fetch.1 = .getc ∨ decode s.fetch.1 = .inp))) ∧
  (∀ s : State, s.status = .halted → step s = .fault .afterHalt) ∧
  (∀ (s : State) (r : FatalReason), s.status = .faulted r → step s = .fault (.afterFatal r))

/-- Rule R25: the machine starts RUNNING; a step sets HALTED exactly if it executes a TRAP word with
selector 0x25; HALTED and FAULTED are terminal. The encoding is the spec's decision D2 (PRESUMED,
log entry 7). -/
def Obligations.OnlyHaltHalts : Prop :=
  State.reset.status = .running ∧
  ∀ s t : State, step s = .next t →
    s.status = .running ∧
    (t.status = .halted ↔
      s.fetch.1.extractLsb 15 12 = 0b1111#4 ∧ s.fetch.1.extractLsb 7 0 = 0x25#8)

/-- Rule R91: a step ends in FAULTED for exactly these four reasons, each in exactly its case, read
off the fetched word and, for the string routines, off the cells from R0 on: the scan reaches
0xFE00 with no zero word before it. The reasons are numbered 1 to 4. The undefined trap, the
string scan and the numbers are the spec's decisions D5, D11 and D17 (log entry 8), the opcode
numbers D2 (log entry 7). -/
def Obligations.FatalConditionsAreExactlyTheFour : Prop :=
  (∀ (s t : State) (r : FatalReason), step s = .next t →
    (t.status = .faulted r ↔
      (r = .rtiUnsupported ∧ s.fetch.1.extractLsb 15 12 = 0b1000#4) ∨
      (r = .reservedOpcode ∧ s.fetch.1.extractLsb 15 12 = 0b1101#4) ∨
      (r = .undefinedTrap ∧ s.fetch.1.extractLsb 15 12 = 0b1111#4 ∧
        ((s.fetch.1.extractLsb 7 0).toNat < 0x20 ∨ 0x25 < (s.fetch.1.extractLsb 7 0).toNat)) ∨
      (r = .stringAtKbsr ∧ s.fetch.1.extractLsb 15 12 = 0b1111#4 ∧
        (s.fetch.1.extractLsb 7 0 = 0x22#8 ∨ s.fetch.1.extractLsb 7 0 = 0x24#8) ∧
        ∃ n < 65536, s.reg .r0 + BitVec.ofNat 16 n = 0xFE00 ∧
          ∀ k < n, s.cell (s.reg .r0 + BitVec.ofNat 16 k) ≠ 0))) ∧
  FatalReason.rtiUnsupported.code = 1 ∧ FatalReason.reservedOpcode.code = 2 ∧
  FatalReason.undefinedTrap.code = 3 ∧ FatalReason.stringAtKbsr.code = 4

/-- Rule R92: raising a fatal condition sets the status and undoes nothing; no later step is taken;
and the host has received some prefix of the output. The prefix is the spec's decision D13 (log
entry 17). -/
def Obligations.FatalEndsTheRun : Prop :=
  ∀ (s : State) (r : FatalReason),
    s.raiseFatal r = { s with status := .faulted r } ∧
    (∀ t, step (s.raiseFatal r) ≠ .next t) ∧
    ∀ bs, HostReceived (s.raiseFatal r) bs ↔ bs <+: s.out

/-- Rule R19: after the fetch increment PC is changed only by BR when taken, JMP or RET, JSR and JSRR. -/
def Obligations.PcChangedOnlyByControlTransfer : Prop :=
  ∀ (i : Instr) (s t : State), exec i s = .next t → t.pc ≠ s.pc →
    (∃ nzp off, i = .br nzp off ∧ nzp &&& s.cond.bits ≠ 0) ∨ (∃ b, i = .jmp b) ∨ i = .ret ∨
      (∃ off, i = .jsr off) ∨ ∃ b, i = .jsrr b

/-- Rule R21: COND takes the flag of the value in DR after exactly ADD, AND, NOT, LD, LDI, LDR and
LEA, and of R0 after GETC and IN; every other instruction leaves it. BR alone reads it: run with
another COND, any other instruction does the same and leaves that COND where it does not set it. -/
def Obligations.FlagsWrittenAndReadExactlyBy : Prop :=
  (∀ (i : Instr) (s t : State), exec i s = .next t →
    match flagRegister i with
    | some r => t.cond = Cond.ofWord (t.reg r)
    | none => t.cond = s.cond) ∧
  (∀ (i : Instr) (s : State) (c : Cond), (∀ nzp off, i ≠ .br nzp off) →
    exec i { s with cond := c } =
      mapNext (fun t => { t with cond := if flagRegister i = none then c else t.cond })
        (exec i s))

/-- Rule R15: no instruction writes a register that its encoding does not name as DR, but for R7,
which JSR, JSRR and TRAP set to the return address, and R0, which GETC and IN write; RET is JMP
R7. -/
def Obligations.RegistersWrittenExactlyBy : Prop :=
  (∀ (i : Instr) (s t : State), exec i s = .next t →
    (∀ r, r ∉ writtenRegs i → t.reg r = s.reg r) ∧ (linksR7 i = true → t.reg .r7 = s.pc)) ∧
  (∀ s : State, exec .ret s = exec (.jmp .r7) s)

/-- Rule R26: the output stream starts empty and only grows; only OUT, PUTS, IN and PUTSP append to
it, and HALT its message; no instruction reads it, so what was written before changes nothing
else. -/
def Obligations.OutputGrowsOnlyByTraps : Prop :=
  State.reset.out = [] ∧
  (∀ (i : Instr) (s t : State), exec i s = .next t → s.out <+: t.out) ∧
  (∀ (i : Instr) (s t : State), exec i s = .next t → ¬ writesOutput i →
    t.out = s.out ++ if i = .halt ∨ i = .trap 0x25 then haltMessage else []) ∧
  (∀ (i : Instr) (s : State) (bs : List Byte),
    exec i { s with out := bs ++ s.out } =
      mapNext (fun t => { t with out := bs ++ t.out }) (exec i s))

/-- A cell changes only by the store of ST, STI or STR to its address, or, for the two keyboard cells,
by a poll (rules R41, R42, R46 and R48). -/
def Obligations.MemoryChangedOnlyByStoresAndPolls : Prop :=
  ∀ (i : Instr) (s t : State) (a : Word), exec i s = .next t → t.cell a ≠ s.cell a →
    (∃ sr off, i = .st sr off ∧ a = s.pcOffset9 off) ∨
    (∃ sr off, i = .sti sr off ∧ a = (s.pointer off).1) ∨
    (∃ sr b off, i = .str sr b off ∧ a = s.baseOffset6 b off) ∨
    ((a = 0xFE00 ∨ a = 0xFE02) ∧ s.polled < t.polled)

/-- A trap routine writes no memory cell, never polls the keyboard, leaves PC at the return address
and puts that address in R7; only GETC and IN take a byte from the host (rules R87 and R95). That
the routines are built in is the spec's decision D15 (log entry 20). -/
def Obligations.TrapRoutinesTouchNoMemoryAndNoKeyboard : Prop :=
  ∀ (i : Instr) (s t : State), isTrap i → exec i s = .next t →
    t.mem = s.mem ∧ t.polls = s.polls ∧ t.polled = s.polled ∧ t.pc = s.pc ∧ t.reg .r7 = s.pc ∧
    (readsHost i → t.chars = s.chars.tail ∧ t.taken = s.taken + 1) ∧
    (¬ readsHost i → t.chars = s.chars ∧ t.taken = s.taken)

/-- The stored cell 0xFE00 is never observable (rule R42): two states that differ in nothing else step
to states that differ in nothing else, or both stop for the same reason. What the cell holds is
the spec's decision D7 (log entry 10). -/
def Obligations.StoredKbsrIsUnobservable : Prop :=
  ∀ s s' : State, SameButKbsrCell s s' → OutcomeRel SameButKbsrCell (step s) (step s')

/-- Rule R102: the state at the start of execution, for every `GPR_INIT` and every `MEM_INIT`; with no
image loaded every cell is zero. -/
def Obligations.StateAtTheStartOfExecution : Prop :=
  (∀ (g : Fin 8 → Word) (m : Memory),
    (State.resetWith g m).reg .r0 = g 0 ∧ (State.resetWith g m).reg .r1 = g 1 ∧
    (State.resetWith g m).reg .r2 = g 2 ∧ (State.resetWith g m).reg .r3 = g 3 ∧
    (State.resetWith g m).reg .r4 = g 4 ∧ (State.resetWith g m).reg .r5 = g 5 ∧
    (State.resetWith g m).reg .r6 = g 6 ∧ (State.resetWith g m).reg .r7 = g 7 ∧
    (State.resetWith g m).pc = 0x3000 ∧ (State.resetWith g m).cond = .zro ∧
    (State.resetWith g m).mem = m ∧ (State.resetWith g m).status = .running ∧
    (State.resetWith g m).out = []) ∧
  (∃ g, State.reset = State.resetWith g [] ∧ ∀ a, State.reset.cell a = 0)

/-! ### Operate instructions -/

/-- Rule R63: ADD, both forms, with its encoding (decision D2, log entry 7). -/
def Obligations.AddAddsModulo65536 : Prop :=
  (∀ w : Word, w.extractLsb 15 12 = 0b0001#4 →
    decode w =
      if w.getLsbD 5 = true then
        .addImm (Reg.ofBits (w.extractLsb 11 9)) (Reg.ofBits (w.extractLsb 8 6))
          (w.extractLsb 4 0)
      else
        .addReg (Reg.ofBits (w.extractLsb 11 9)) (Reg.ofBits (w.extractLsb 8 6))
          (Reg.ofBits (w.extractLsb 2 0))) ∧
  (∀ (dr sr1 sr2 : Reg) (s : State), ∃ t, exec (.addReg dr sr1 sr2) s = .next t ∧
    WroteResult s t dr (s.reg sr1 + s.reg sr2)) ∧
  (∀ (dr sr1 : Reg) (imm5 : BitVec 5) (s : State), ∃ t, exec (.addImm dr sr1 imm5) s = .next t ∧
    WroteResult s t dr (s.reg sr1 + imm5.signExtend 16))

/-- Rule R64: AND, both forms, with its encoding (decision D2, log entry 7). -/
def Obligations.AndIsBitwise : Prop :=
  (∀ w : Word, w.extractLsb 15 12 = 0b0101#4 →
    decode w =
      if w.getLsbD 5 = true then
        .andImm (Reg.ofBits (w.extractLsb 11 9)) (Reg.ofBits (w.extractLsb 8 6))
          (w.extractLsb 4 0)
      else
        .andReg (Reg.ofBits (w.extractLsb 11 9)) (Reg.ofBits (w.extractLsb 8 6))
          (Reg.ofBits (w.extractLsb 2 0))) ∧
  (∀ (dr sr1 sr2 : Reg) (s : State), ∃ t, exec (.andReg dr sr1 sr2) s = .next t ∧
    WroteResult s t dr (s.reg sr1 &&& s.reg sr2)) ∧
  (∀ (dr sr1 : Reg) (imm5 : BitVec 5) (s : State), ∃ t, exec (.andImm dr sr1 imm5) s = .next t ∧
    WroteResult s t dr (s.reg sr1 &&& imm5.signExtend 16))

/-- Rule R65: NOT, with its encoding (decision D2, log entry 7): the complement, 0xFFFF minus the
value. -/
def Obligations.NotComplements : Prop :=
  (∀ w : Word, w.extractLsb 15 12 = 0b1001#4 →
    decode w = .not (Reg.ofBits (w.extractLsb 11 9)) (Reg.ofBits (w.extractLsb 8 6))) ∧
  (∀ (dr sr : Reg) (s : State), ∃ t, exec (.not dr sr) s = .next t ∧
    WroteResult s t dr (~~~ s.reg sr) ∧ t.reg dr = 0xFFFF - s.reg sr)

/-- Rule R66: NOT and then ADD #1 negate modulo 65536, and the negation of 0x8000 is 0x8000. -/
def Obligations.NotThenAddOneNegates : Prop :=
  ∀ (dr sr : Reg) (s : State), ∃ t u, exec (.not dr sr) s = .next t ∧
    exec (.addImm dr dr 1) t = .next u ∧
    (u.reg dr).toNat = (0x10000 - (s.reg sr).toNat) % 65536 ∧
    (s.reg sr = 0x8000 → u.reg dr = 0x8000)

/-! ### Control transfer -/

/-- Rule R75: BR, with its encoding (decision D2, log entry 7) and the mask COND stands for. The bits
of COND are the spec's decision D3 (log entry 7). -/
def Obligations.BrBranchesOnTheMaskedFlag : Prop :=
  (∀ w : Word, w.extractLsb 15 12 = 0b0000#4 →
    decode w = .br (w.extractLsb 11 9) (w.extractLsb 8 0)) ∧
  (∀ (nzp : BitVec 3) (off : BitVec 9) (s : State),
    exec (.br nzp off) s = .next
      (if nzp &&& (match s.cond with | .neg => 0b100#3 | .zro => 0b010#3 | .pos => 0b001#3) ≠ 0
       then { s with pc := s.pc + off.signExtend 16 } else s)) ∧
  (∀ (off : BitVec 9) (s : State), exec (.br 0b000 off) s = .next s ∧
    exec (.br 0b111 off) s = .next { s with pc := s.pc + off.signExtend 16 })

/-- Rule R76: JMP and RET, with their encoding (decision D2, log entry 7). -/
def Obligations.JmpAndRetTakeTheRegister : Prop :=
  (∀ w : Word, w.extractLsb 15 12 = 0b1100#4 →
    decode w =
      if w.extractLsb 8 6 = 7#3 then .ret else .jmp (Reg.ofBits (w.extractLsb 8 6))) ∧
  (∀ (b : Reg) (s : State), exec (.jmp b) s = .next { s with pc := s.reg b }) ∧
  (∀ s : State, exec .ret s = .next { s with pc := s.reg .r7 })

/-- Rule R77: JSR, with its encoding (decision D2, log entry 7). -/
def Obligations.JsrLinksAndJumps : Prop :=
  (∀ w : Word, w.extractLsb 15 12 = 0b0100#4 → w.getLsbD 11 = true →
    decode w = .jsr (w.extractLsb 10 0)) ∧
  (∀ (off : BitVec 11) (s : State), ∃ t, exec (.jsr off) s = .next t ∧
    t.reg .r7 = s.pc ∧ t.pc = s.pc + off.signExtend 16 ∧ SameRegsBut [.r7] s t ∧
    t.cond = s.cond ∧ SameCellsBut [] s t ∧ SameRun s t ∧ SameHost s t)

/-- Rule R78: JSRR, with its encoding (decision D2, log entry 7); BaseR is read after R7 is written. -/
def Obligations.JsrrLinksThenReadsTheBase : Prop :=
  (∀ w : Word, w.extractLsb 15 12 = 0b0100#4 → w.getLsbD 11 = false →
    decode w = .jsrr (Reg.ofBits (w.extractLsb 8 6))) ∧
  (∀ (b : Reg) (s : State), ∃ t, exec (.jsrr b) s = .next t ∧
    t.reg .r7 = s.pc ∧ t.pc = (if b = .r7 then s.pc else s.reg b) ∧ SameRegsBut [.r7] s t ∧
    t.cond = s.cond ∧ SameCellsBut [] s t ∧ SameRun s t ∧ SameHost s t)

/-! ### Data movement -/

/-- Rule R68: LD, with its encoding (decision D2, log entry 7). Reading any address but 0xFE00 gives
the stored cell and changes no memory; reading 0xFE00 is the poll of rule R42. -/
def Obligations.LdLoadsPcRelative : Prop :=
  (∀ w : Word, w.extractLsb 15 12 = 0b0010#4 →
    decode w = .ld (Reg.ofBits (w.extractLsb 11 9)) (w.extractLsb 8 0)) ∧
  (∀ (dr : Reg) (off : BitVec 9) (s : State), ∃ t, exec (.ld dr off) s = .next t ∧
    LoadedResult s t dr (s.memRead (s.pc + off.signExtend 16)) ∧
    (s.pc + off.signExtend 16 ≠ 0xFE00 →
      WroteResult s t dr (s.cell (s.pc + off.signExtend 16))))

/-- Rule R69: LDI, with its encoding (decision D2, log entry 7): the pointer is read first, then the
data, both through the memory unit. -/
def Obligations.LdiLoadsThroughThePointer : Prop :=
  (∀ w : Word, w.extractLsb 15 12 = 0b1010#4 →
    decode w = .ldi (Reg.ofBits (w.extractLsb 11 9)) (w.extractLsb 8 0)) ∧
  (∀ (dr : Reg) (off : BitVec 9) (s : State), ∃ t, exec (.ldi dr off) s = .next t ∧
    LoadedResult s t dr
      ((s.memRead (s.pc + off.signExtend 16)).2.memRead
        (s.memRead (s.pc + off.signExtend 16)).1) ∧
    (s.pc + off.signExtend 16 ≠ 0xFE00 → s.cell (s.pc + off.signExtend 16) ≠ 0xFE00 →
      WroteResult s t dr (s.cell (s.cell (s.pc + off.signExtend 16)))))

/-- Rule R70: LDR, with its encoding (decision D2, log entry 7); BaseR is read before DR is written. -/
def Obligations.LdrLoadsBasePlusOffset : Prop :=
  (∀ w : Word, w.extractLsb 15 12 = 0b0110#4 →
    decode w = .ldr (Reg.ofBits (w.extractLsb 11 9)) (Reg.ofBits (w.extractLsb 8 6))
      (w.extractLsb 5 0)) ∧
  (∀ (dr b : Reg) (off : BitVec 6) (s : State), ∃ t, exec (.ldr dr b off) s = .next t ∧
    LoadedResult s t dr (s.memRead (s.reg b + off.signExtend 16)) ∧
    (s.reg b + off.signExtend 16 ≠ 0xFE00 →
      WroteResult s t dr (s.cell (s.reg b + off.signExtend 16))))

/-- Rule R71: LEA, with its encoding (decision D2, log entry 7): the address goes to DR and sets the
flags; no memory access and no poll, even for the address 0xFE00. -/
def Obligations.LeaComputesTheAddressOnly : Prop :=
  (∀ w : Word, w.extractLsb 15 12 = 0b1110#4 →
    decode w = .lea (Reg.ofBits (w.extractLsb 11 9)) (w.extractLsb 8 0)) ∧
  (∀ (dr : Reg) (off : BitVec 9) (s : State), ∃ t, exec (.lea dr off) s = .next t ∧
    WroteResult s t dr (s.pc + off.signExtend 16))

/-- Rule R72: ST, with its encoding (decision D2, log entry 7): one cell changes, the one at the
address the meaning computes. -/
def Obligations.StStoresPcRelative : Prop :=
  (∀ w : Word, w.extractLsb 15 12 = 0b0011#4 →
    decode w = .st (Reg.ofBits (w.extractLsb 11 9)) (w.extractLsb 8 0)) ∧
  (∀ (sr : Reg) (off : BitVec 9) (s : State), ∃ t, exec (.st sr off) s = .next t ∧
    s.pcOffset9 off = s.pc + off.signExtend 16 ∧ WroteCell s t (s.pcOffset9 off) (s.reg sr))

/-- Rule R73: STI, with its encoding (decision D2, log entry 7): the pointer is read through the
memory unit, and the store is to the state that read leaves, at the address it gives. -/
def Obligations.StiStoresThroughThePointer : Prop :=
  (∀ w : Word, w.extractLsb 15 12 = 0b1011#4 →
    decode w = .sti (Reg.ofBits (w.extractLsb 11 9)) (w.extractLsb 8 0)) ∧
  (∀ (sr : Reg) (off : BitVec 9) (s : State), ∃ t, exec (.sti sr off) s = .next t ∧
    s.pointer off = s.memRead (s.pc + off.signExtend 16) ∧
    WroteCell (s.pointer off).2 t (s.pointer off).1 (s.reg sr) ∧
    SameRegsBut [] s t ∧ t.cond = s.cond ∧ t.pc = s.pc ∧ SameRun s t ∧
    (s.pc + off.signExtend 16 ≠ 0xFE00 →
      WroteCell s t (s.cell (s.pc + off.signExtend 16)) (s.reg sr)))

/-- Rule R74: STR, with its encoding (decision D2, log entry 7): one cell changes, the one at the
address the meaning computes. -/
def Obligations.StrStoresBasePlusOffset : Prop :=
  (∀ w : Word, w.extractLsb 15 12 = 0b0111#4 →
    decode w = .str (Reg.ofBits (w.extractLsb 11 9)) (Reg.ofBits (w.extractLsb 8 6))
      (w.extractLsb 5 0)) ∧
  (∀ (sr b : Reg) (off : BitVec 6) (s : State), ∃ t, exec (.str sr b off) s = .next t ∧
    s.baseOffset6 b off = s.reg b + off.signExtend 16 ∧
    WroteCell s t (s.baseOffset6 b off) (s.reg sr))

/-! ### Traps -/

/-- Rules R80 and R88: TRAP, with its encoding (decision D2, log entry 7). A selector 0x20 to 0x25
runs its routine; any other is fatal after R7 has been written. R7 gets PC and PC stays, whatever
the routine. That an undefined selector is fatal is the spec's decision D5 (log entry 8). -/
def Obligations.TrapDispatchesOnTheSelector : Prop :=
  (∀ w : Word, w.extractLsb 15 12 = 0b1111#4 →
    decode w =
      if w.extractLsb 7 0 = 0x20#8 then .getc
      else if w.extractLsb 7 0 = 0x21#8 then .out
      else if w.extractLsb 7 0 = 0x22#8 then .puts
      else if w.extractLsb 7 0 = 0x23#8 then .inp
      else if w.extractLsb 7 0 = 0x24#8 then .putsp
      else if w.extractLsb 7 0 = 0x25#8 then .halt
      else .trap (w.extractLsb 7 0)) ∧
  (∀ s : State, exec (.trap 0x20) s = exec .getc s ∧ exec (.trap 0x21) s = exec .out s ∧
    exec (.trap 0x22) s = exec .puts s ∧ exec (.trap 0x23) s = exec .inp s ∧
    exec (.trap 0x24) s = exec .putsp s ∧ exec (.trap 0x25) s = exec .halt s) ∧
  (∀ (i : Instr) (s t : State), isTrap i → exec i s = .next t →
    t.reg .r7 = s.pc ∧ t.pc = s.pc) ∧
  (∀ (v : BitVec 8) (s : State), v.toNat < 0x20 ∨ 0x25 < v.toNat →
    ∃ t, exec (.trap v) s = .next t ∧ t.status = .faulted .undefinedTrap ∧
      TrapFrame [] s t ∧ t.cond = s.cond ∧ t.out = s.out ∧ t.chars = s.chars ∧
      t.taken = s.taken)

/-- Rule R81: GETC puts the host's next byte, widened with zeros, in R0 and sets the flags (never
NEG); it echoes nothing and touches no memory; it blocks where the host supplies no byte. The
zeros above the byte are the spec's decision D9 (log entry 11), the blocking D14 (log entry 13). -/
def Obligations.GetcReadsOneCharacter : Prop :=
  (∀ (s : State) (c : Byte), s.nextByte = some c →
    ∃ t, exec .getc s = .next t ∧ t.reg .r0 = 0x00#8 ++ c ∧
      t.cond = (if c = 0 then .zro else .pos) ∧ TrapFrame [.r0] s t ∧ SameRun s t ∧
      t.chars = s.chars.tail ∧ t.taken = s.taken + 1) ∧
  (∀ s : State, s.nextByte = none → exec .getc s = .fault .hostReadBlocks)

/-- Rule R82: OUT appends `R0[7:0]` to the output, and changes nothing else but R7. -/
def Obligations.OutWritesTheLowByteOfR0 : Prop :=
  ∀ s : State, ∃ t, exec .out s = .next t ∧ t.out = s.out ++ [(s.reg .r0).extractLsb 7 0] ∧
    t.status = s.status ∧ TrapFrame [] s t ∧ t.cond = s.cond ∧ t.chars = s.chars ∧
    t.taken = s.taken

/-- Rule R83: PUTS writes the low byte of each word from R0 on, modulo 65536, up to the first address
that is 0xFE00 (fatal) or holds zero (the end); there is such an address within 65536 words.
Nothing but R7, the output and, in the fatal case, the status changes. The fatal case is the
spec's decision D11 (log entry 8). -/
def Obligations.PutsWritesUpToTheZeroWord : Prop :=
  ∀ s : State, ∃ n < 65536, ∃ t, exec .puts s = .next t ∧
    (∀ k < n, s.reg .r0 + BitVec.ofNat 16 k ≠ 0xFE00 ∧
      s.cell (s.reg .r0 + BitVec.ofNat 16 k) ≠ 0) ∧
    t.out = s.out ++ (List.range n).map
      (fun k => (s.cell (s.reg .r0 + BitVec.ofNat 16 k)).extractLsb 7 0) ∧
    ((s.reg .r0 + BitVec.ofNat 16 n = 0xFE00 ∧ t.status = .faulted .stringAtKbsr) ∨
      (s.reg .r0 + BitVec.ofNat 16 n ≠ 0xFE00 ∧
        s.cell (s.reg .r0 + BitVec.ofNat 16 n) = 0 ∧ t.status = s.status)) ∧
    TrapFrame [] s t ∧ t.cond = s.cond ∧ t.chars = s.chars ∧ t.taken = s.taken

/-- Rule R84: IN writes the prompt, whatever it is, then reads the host's next byte, echoes it, puts
it in R0 and sets the flags; it blocks where the host supplies no byte. Prompt and echo are the
spec's decision D10 (log entry 5), the zeros D9 (log entry 11), the blocking D14 (log entry 13). -/
def Obligations.InPromptsReadsAndEchoes : Prop :=
  (∀ (s : State) (c : Byte), s.nextByte = some c →
    ∃ t, exec .inp s = .next t ∧ t.out = s.out ++ Config.inPrompt ++ [c] ∧
      t.reg .r0 = 0x00#8 ++ c ∧ t.cond = (if c = 0 then .zro else .pos) ∧
      t.status = s.status ∧ TrapFrame [.r0] s t ∧ t.chars = s.chars.tail ∧
      t.taken = s.taken + 1) ∧
  (∀ s : State, s.nextByte = none → exec .inp s = .fault .hostReadBlocks)

/-- Rule R85: PUTSP writes the low byte of each word from R0 on and then its high byte if that is not
zero, up to the first address that is 0xFE00 (fatal) or holds zero (the end). The fatal case is
the spec's decision D11 (log entry 8). -/
def Obligations.PutspWritesTwoCharactersAWord : Prop :=
  ∀ s : State, ∃ n < 65536, ∃ t, exec .putsp s = .next t ∧
    (∀ k < n, s.reg .r0 + BitVec.ofNat 16 k ≠ 0xFE00 ∧
      s.cell (s.reg .r0 + BitVec.ofNat 16 k) ≠ 0) ∧
    t.out = s.out ++ (List.range n).flatMap (fun k =>
      let w := s.cell (s.reg .r0 + BitVec.ofNat 16 k)
      w.extractLsb 7 0 :: if w.extractLsb 15 8 = 0#8 then [] else [w.extractLsb 15 8]) ∧
    ((s.reg .r0 + BitVec.ofNat 16 n = 0xFE00 ∧ t.status = .faulted .stringAtKbsr) ∨
      (s.reg .r0 + BitVec.ofNat 16 n ≠ 0xFE00 ∧
        s.cell (s.reg .r0 + BitVec.ofNat 16 n) = 0 ∧ t.status = s.status)) ∧
    TrapFrame [] s t ∧ t.cond = s.cond ∧ t.chars = s.chars ∧ t.taken = s.taken

/-- Rule R86: HALT sets HALTED with R7 and PC at the next address, writes its message, which is empty,
and flushes, so the host has received exactly the output; no later step is taken. The empty
message is the spec's decision D12 (log entry 6). -/
def Obligations.HaltStopsAndFlushes : Prop :=
  ∀ s : State, ∃ t, exec .halt s = .next t ∧ t.status = .halted ∧ t.out = s.out ∧
    (∀ bs, HostReceived t bs ↔ bs = t.out) ∧ (∀ u, step t ≠ .next u) ∧ TrapFrame [] s t ∧
    t.cond = s.cond ∧ t.chars = s.chars ∧ t.taken = s.taken

/-- RET, GETC, OUT, PUTS, IN, PUTSP and HALT run as their expansions and have their expansions' words
(rule R62). That the names are constructors is the model's choice (log entry 18). -/
def Obligations.NamesRunAsTheirExpansions : Prop :=
  (∀ s : State, exec .ret s = exec (.jmp .r7) s ∧ exec .getc s = exec (.trap 0x20) s ∧
    exec .out s = exec (.trap 0x21) s ∧ exec .puts s = exec (.trap 0x22) s ∧
    exec .inp s = exec (.trap 0x23) s ∧ exec .putsp s = exec (.trap 0x24) s ∧
    exec .halt s = exec (.trap 0x25) s) ∧
  encode .ret = encode (.jmp .r7) ∧ encode .getc = encode (.trap 0x20) ∧
  encode .out = encode (.trap 0x21) ∧ encode .puts = encode (.trap 0x22) ∧
  encode .inp = encode (.trap 0x23) ∧ encode .putsp = encode (.trap 0x24) ∧
  encode .halt = encode (.trap 0x25)

/-! ### Fatal opcodes and the loader -/

/-- Rule R89: every word with opcode 1000 is RTI, which always raises Fatal(RTI_UNSUPPORTED) and
changes nothing else. The encoding is the spec's decision D2 (PRESUMED, log entry 7). -/
def Obligations.RtiIsFatal : Prop :=
  (∀ w : Word, w.extractLsb 15 12 = 0b1000#4 → decode w = .rti) ∧
  (∀ s : State, exec .rti s = .next { s with status := .faulted .rtiUnsupported })

/-- Rule R90: every word with opcode 1101 is RES, which always raises Fatal(RESERVED_OPCODE) and
changes nothing else. The encoding is the spec's decision D2 (PRESUMED, log entry 7). -/
def Obligations.ResIsFatal : Prop :=
  (∀ w : Word, w.extractLsb 15 12 = 0b1101#4 → decode w = .res) ∧
  (∀ s : State, exec .res s = .next { s with status := .faulted .reservedOpcode })

/-- An image's words, in big-endian bytes and after the origin word, go to consecutive cells from the
origin on, and every other cell keeps its word; images load in order; a run on them starts at
0x3000 whatever their origins (rule R104, for images within the address space). The loader is
software outside CORE (log entry 9). -/
def Obligations.ImageLoading : Prop :=
  (∀ (origin : Word) (ws : List Word) (m : Memory), origin.toNat + ws.length ≤ 65536 →
    ∃ m', loadImage ((origin :: ws).flatMap (fun w => [w.extractLsb 15 8, w.extractLsb 7 0])) m
        = some m' ∧
      (∀ k (h : k < ws.length), Memory.read m' (origin.toNat + k) = ws[k]) ∧
      (∀ a, a < origin.toNat ∨ origin.toNat + ws.length ≤ a →
        Memory.read m' a = Memory.read m a)) ∧
  (∀ m : Memory, loadImages [] m = some m) ∧
  (∀ (image : List Byte) (images : List (List Byte)) (m m' : Memory),
    loadImage image m = some m' → loadImages (image :: images) m = loadImages images m') ∧
  (∀ (images : List (List Byte)) (s : State), State.boot images = some s →
    s.pc = 0x3000 ∧ loadImages images [] = some s.mem)
end

