-- ==== Sys2Proof/Laws/Encoding.lean ====
section
/-! SUPPORT. The fields of the four word layouts, read back one by one, and the register field. -/

namespace Sys2Proof

@[simp] theorem Reg.ofBits_toBits (r : Reg) : Reg.ofBits r.toBits = r := by cases r <;> rfl

/-- Any 3-bit field names a register (rule R54: "The decoder never produces an out-of-range field"). -/
@[simp] theorem Reg.toBits_ofBits (k : BitVec 3) : (Reg.ofBits k).toBits = k := by
  revert k
  decide

section packRegReg
variable (op : BitVec 4) (a b : BitVec 3) (low : BitVec 6)

@[simp] theorem packRegReg_opcode : Field.opcode (packRegReg op a b low) = op := by
  show BitVec.extractLsb' 12 4 (op ++ a ++ b ++ low) = op
  rw [BitVec.extractLsb'_append_eq_of_le (by decide),
    BitVec.extractLsb'_append_eq_of_le (by decide), BitVec.extractLsb'_append_eq_of_le (by decide)]
  simp

theorem packRegReg_extract11 : (packRegReg op a b low).extractLsb 11 9 = a := by
  show BitVec.extractLsb' 9 3 (op ++ a ++ b ++ low) = a
  rw [BitVec.extractLsb'_append_eq_of_le (by decide),
    BitVec.extractLsb'_append_eq_of_le (by decide),
    BitVec.extractLsb'_append_eq_of_add_le (by decide)]
  simp

theorem packRegReg_extract8 : (packRegReg op a b low).extractLsb 8 6 = b := by
  show BitVec.extractLsb' 6 3 (op ++ a ++ b ++ low) = b
  rw [BitVec.extractLsb'_append_eq_of_le (by decide),
    BitVec.extractLsb'_append_eq_of_add_le (by decide)]
  simp

/-- A field below bit 6 lies in the low part. -/
theorem packRegReg_extractLow {start len : Nat} (h : start + len ≤ 6) :
    BitVec.extractLsb' start len (packRegReg op a b low) = BitVec.extractLsb' start len low := by
  show BitVec.extractLsb' start len (op ++ a ++ b ++ low) = _
  rw [BitVec.extractLsb'_append_eq_of_add_le h]

@[simp] theorem packRegReg_offset6 : Field.offset6 (packRegReg op a b low) = low := by
  show BitVec.extractLsb' 0 6 (packRegReg op a b low) = low
  rw [packRegReg_extractLow _ _ _ _ (by decide)]
  simp

/-- A bit below bit 6 lies in the low part. -/
theorem packRegReg_bitLow {i : Nat} (h : i < 6) :
    (packRegReg op a b low).getLsbD i = low.getLsbD i := by
  show (op ++ a ++ b ++ low).getLsbD i = _
  rw [BitVec.getLsbD_append, if_pos h]

end packRegReg

section packOffset9
variable (op : BitVec 4) (a : BitVec 3) (off : BitVec 9)

@[simp] theorem packOffset9_opcode : Field.opcode (packOffset9 op a off) = op := by
  show BitVec.extractLsb' 12 4 (op ++ a ++ off) = op
  rw [BitVec.extractLsb'_append_eq_of_le (by decide),
    BitVec.extractLsb'_append_eq_of_le (by decide)]
  simp

theorem packOffset9_extract11 : (packOffset9 op a off).extractLsb 11 9 = a := by
  show BitVec.extractLsb' 9 3 (op ++ a ++ off) = a
  rw [BitVec.extractLsb'_append_eq_of_le (by decide),
    BitVec.extractLsb'_append_eq_of_add_le (by decide)]
  simp

@[simp] theorem packOffset9_offset9 : Field.offset9 (packOffset9 op a off) = off := by
  show BitVec.extractLsb' 0 9 (op ++ a ++ off) = off
  rw [BitVec.extractLsb'_append_eq_of_add_le (by decide)]
  simp

end packOffset9

section packOffset11
variable (op : BitVec 4) (flag : BitVec 1) (off : BitVec 11)

@[simp] theorem packOffset11_opcode : Field.opcode (packOffset11 op flag off) = op := by
  show BitVec.extractLsb' 12 4 (op ++ flag ++ off) = op
  rw [BitVec.extractLsb'_append_eq_of_le (by decide),
    BitVec.extractLsb'_append_eq_of_le (by decide)]
  simp

@[simp] theorem packOffset11_offset11 : Field.offset11 (packOffset11 op flag off) = off := by
  show BitVec.extractLsb' 0 11 (op ++ flag ++ off) = off
  rw [BitVec.extractLsb'_append_eq_of_add_le (by decide)]
  simp

@[simp] theorem packOffset11_longMode :
    Field.longMode (packOffset11 op flag off) = flag.getLsbD 0 := by
  show (op ++ flag ++ off).getLsbD 11 = _
  rw [BitVec.getLsbD_append, if_neg (by decide), BitVec.getLsbD_append, if_pos (by decide)]

end packOffset11

section packVect8
variable (op ignored : BitVec 4) (v : BitVec 8)

@[simp] theorem packVect8_opcode : Field.opcode (packVect8 op ignored v) = op := by
  show BitVec.extractLsb' 12 4 (op ++ ignored ++ v) = op
  rw [BitVec.extractLsb'_append_eq_of_le (by decide),
    BitVec.extractLsb'_append_eq_of_le (by decide)]
  simp

@[simp] theorem packVect8_vect8 : Field.vect8 (packVect8 op ignored v) = v := by
  show BitVec.extractLsb' 0 8 (op ++ ignored ++ v) = v
  rw [BitVec.extractLsb'_append_eq_of_add_le (by decide)]
  simp

end packVect8

end Sys2Proof
end

