-- ==== Sys2Proof/Laws/State.lean ====
section
/-! SUPPORT. One lemma for each field of State after each update of Ops.lean and Flags.lean, true by
rfl, so that no later proof unfolds a record update. -/

namespace Sys2Proof.Machine

variable (s : State)

/-! ### setReg -/

@[simp] theorem State.setReg_regs (i : Reg) (v : Word) : (s.setReg i v).regs = s.regs.set i v := rfl
@[simp] theorem State.setReg_pc (i : Reg) (v : Word) : (s.setReg i v).pc = s.pc := rfl
@[simp] theorem State.setReg_cond (i : Reg) (v : Word) : (s.setReg i v).cond = s.cond := rfl
@[simp] theorem State.setReg_mem (i : Reg) (v : Word) : (s.setReg i v).mem = s.mem := rfl
@[simp] theorem State.setReg_status (i : Reg) (v : Word) : (s.setReg i v).status = s.status := rfl
@[simp] theorem State.setReg_out (i : Reg) (v : Word) : (s.setReg i v).out = s.out := rfl
@[simp] theorem State.setReg_polls (i : Reg) (v : Word) : (s.setReg i v).polls = s.polls := rfl
@[simp] theorem State.setReg_chars (i : Reg) (v : Word) : (s.setReg i v).chars = s.chars := rfl
@[simp] theorem State.setReg_silent (i : Reg) (v : Word) : (s.setReg i v).silent = s.silent := rfl
@[simp] theorem State.setReg_polled (i : Reg) (v : Word) : (s.setReg i v).polled = s.polled := rfl
@[simp] theorem State.setReg_taken (i : Reg) (v : Word) : (s.setReg i v).taken = s.taken := rfl
@[simp] theorem State.setReg_cell (i : Reg) (v : Word) (x : Word) : (s.setReg i v).cell x = s.cell x := rfl

/-! ### setPc -/

@[simp] theorem State.setPc_regs (a : Word) : (s.setPc a).regs = s.regs := rfl
@[simp] theorem State.setPc_pc (a : Word) : (s.setPc a).pc = a := rfl
@[simp] theorem State.setPc_cond (a : Word) : (s.setPc a).cond = s.cond := rfl
@[simp] theorem State.setPc_mem (a : Word) : (s.setPc a).mem = s.mem := rfl
@[simp] theorem State.setPc_status (a : Word) : (s.setPc a).status = s.status := rfl
@[simp] theorem State.setPc_out (a : Word) : (s.setPc a).out = s.out := rfl
@[simp] theorem State.setPc_polls (a : Word) : (s.setPc a).polls = s.polls := rfl
@[simp] theorem State.setPc_chars (a : Word) : (s.setPc a).chars = s.chars := rfl
@[simp] theorem State.setPc_silent (a : Word) : (s.setPc a).silent = s.silent := rfl
@[simp] theorem State.setPc_polled (a : Word) : (s.setPc a).polled = s.polled := rfl
@[simp] theorem State.setPc_taken (a : Word) : (s.setPc a).taken = s.taken := rfl
@[simp] theorem State.setPc_reg (a : Word) (j : Reg) : (s.setPc a).reg j = s.reg j := rfl
@[simp] theorem State.setPc_cell (a : Word) (x : Word) : (s.setPc a).cell x = s.cell x := rfl

/-! ### setCC -/

@[simp] theorem State.setCC_regs (v : Word) : (s.setCC v).regs = s.regs := rfl
@[simp] theorem State.setCC_pc (v : Word) : (s.setCC v).pc = s.pc := rfl
@[simp] theorem State.setCC_cond (v : Word) : (s.setCC v).cond = Cond.ofWord v := rfl
@[simp] theorem State.setCC_mem (v : Word) : (s.setCC v).mem = s.mem := rfl
@[simp] theorem State.setCC_status (v : Word) : (s.setCC v).status = s.status := rfl
@[simp] theorem State.setCC_out (v : Word) : (s.setCC v).out = s.out := rfl
@[simp] theorem State.setCC_polls (v : Word) : (s.setCC v).polls = s.polls := rfl
@[simp] theorem State.setCC_chars (v : Word) : (s.setCC v).chars = s.chars := rfl
@[simp] theorem State.setCC_silent (v : Word) : (s.setCC v).silent = s.silent := rfl
@[simp] theorem State.setCC_polled (v : Word) : (s.setCC v).polled = s.polled := rfl
@[simp] theorem State.setCC_taken (v : Word) : (s.setCC v).taken = s.taken := rfl
@[simp] theorem State.setCC_reg (v : Word) (j : Reg) : (s.setCC v).reg j = s.reg j := rfl
@[simp] theorem State.setCC_cell (v : Word) (x : Word) : (s.setCC v).cell x = s.cell x := rfl

/-! ### writeResult -/

@[simp] theorem State.writeResult_regs (i : Reg) (v : Word) : (s.writeResult i v).regs = s.regs.set i v := rfl
@[simp] theorem State.writeResult_pc (i : Reg) (v : Word) : (s.writeResult i v).pc = s.pc := rfl
@[simp] theorem State.writeResult_cond (i : Reg) (v : Word) : (s.writeResult i v).cond = Cond.ofWord v := rfl
@[simp] theorem State.writeResult_mem (i : Reg) (v : Word) : (s.writeResult i v).mem = s.mem := rfl
@[simp] theorem State.writeResult_status (i : Reg) (v : Word) : (s.writeResult i v).status = s.status := rfl
@[simp] theorem State.writeResult_out (i : Reg) (v : Word) : (s.writeResult i v).out = s.out := rfl
@[simp] theorem State.writeResult_polls (i : Reg) (v : Word) : (s.writeResult i v).polls = s.polls := rfl
@[simp] theorem State.writeResult_chars (i : Reg) (v : Word) : (s.writeResult i v).chars = s.chars := rfl
@[simp] theorem State.writeResult_silent (i : Reg) (v : Word) : (s.writeResult i v).silent = s.silent := rfl
@[simp] theorem State.writeResult_polled (i : Reg) (v : Word) : (s.writeResult i v).polled = s.polled := rfl
@[simp] theorem State.writeResult_taken (i : Reg) (v : Word) : (s.writeResult i v).taken = s.taken := rfl
@[simp] theorem State.writeResult_cell (i : Reg) (v : Word) (x : Word) : (s.writeResult i v).cell x = s.cell x := rfl

/-! ### setCell -/

@[simp] theorem State.setCell_regs (a v : Word) : (s.setCell a v).regs = s.regs := rfl
@[simp] theorem State.setCell_pc (a v : Word) : (s.setCell a v).pc = s.pc := rfl
@[simp] theorem State.setCell_cond (a v : Word) : (s.setCell a v).cond = s.cond := rfl
@[simp] theorem State.setCell_mem (a v : Word) : (s.setCell a v).mem = Memory.write s.mem a.toNat v := rfl
@[simp] theorem State.setCell_status (a v : Word) : (s.setCell a v).status = s.status := rfl
@[simp] theorem State.setCell_out (a v : Word) : (s.setCell a v).out = s.out := rfl
@[simp] theorem State.setCell_polls (a v : Word) : (s.setCell a v).polls = s.polls := rfl
@[simp] theorem State.setCell_chars (a v : Word) : (s.setCell a v).chars = s.chars := rfl
@[simp] theorem State.setCell_silent (a v : Word) : (s.setCell a v).silent = s.silent := rfl
@[simp] theorem State.setCell_polled (a v : Word) : (s.setCell a v).polled = s.polled := rfl
@[simp] theorem State.setCell_taken (a v : Word) : (s.setCell a v).taken = s.taken := rfl
@[simp] theorem State.setCell_reg (a v : Word) (j : Reg) : (s.setCell a v).reg j = s.reg j := rfl

/-! ### dropByte -/

@[simp] theorem State.dropByte_regs : (s.dropByte).regs = s.regs := rfl
@[simp] theorem State.dropByte_pc : (s.dropByte).pc = s.pc := rfl
@[simp] theorem State.dropByte_cond : (s.dropByte).cond = s.cond := rfl
@[simp] theorem State.dropByte_mem : (s.dropByte).mem = s.mem := rfl
@[simp] theorem State.dropByte_status : (s.dropByte).status = s.status := rfl
@[simp] theorem State.dropByte_out : (s.dropByte).out = s.out := rfl
@[simp] theorem State.dropByte_polls : (s.dropByte).polls = s.polls := rfl
@[simp] theorem State.dropByte_chars : (s.dropByte).chars = s.chars.tail := rfl
@[simp] theorem State.dropByte_silent : (s.dropByte).silent = s.silent := rfl
@[simp] theorem State.dropByte_polled : (s.dropByte).polled = s.polled := rfl
@[simp] theorem State.dropByte_taken : (s.dropByte).taken = s.taken + 1 := rfl
@[simp] theorem State.dropByte_reg (j : Reg) : (s.dropByte).reg j = s.reg j := rfl
@[simp] theorem State.dropByte_cell (x : Word) : (s.dropByte).cell x = s.cell x := rfl

/-! ### dropPoll -/

@[simp] theorem State.dropPoll_regs : (s.dropPoll).regs = s.regs := rfl
@[simp] theorem State.dropPoll_pc : (s.dropPoll).pc = s.pc := rfl
@[simp] theorem State.dropPoll_cond : (s.dropPoll).cond = s.cond := rfl
@[simp] theorem State.dropPoll_mem : (s.dropPoll).mem = s.mem := rfl
@[simp] theorem State.dropPoll_status : (s.dropPoll).status = s.status := rfl
@[simp] theorem State.dropPoll_out : (s.dropPoll).out = s.out := rfl
@[simp] theorem State.dropPoll_polls : (s.dropPoll).polls = s.polls.tail := rfl
@[simp] theorem State.dropPoll_chars : (s.dropPoll).chars = s.chars := rfl
@[simp] theorem State.dropPoll_silent : (s.dropPoll).silent = s.silent := rfl
@[simp] theorem State.dropPoll_polled : (s.dropPoll).polled = s.polled + 1 := rfl
@[simp] theorem State.dropPoll_taken : (s.dropPoll).taken = s.taken := rfl
@[simp] theorem State.dropPoll_reg (j : Reg) : (s.dropPoll).reg j = s.reg j := rfl
@[simp] theorem State.dropPoll_cell (x : Word) : (s.dropPoll).cell x = s.cell x := rfl

/-! ### output -/

@[simp] theorem State.output_regs (bs : List Byte) : (s.output bs).regs = s.regs := rfl
@[simp] theorem State.output_pc (bs : List Byte) : (s.output bs).pc = s.pc := rfl
@[simp] theorem State.output_cond (bs : List Byte) : (s.output bs).cond = s.cond := rfl
@[simp] theorem State.output_mem (bs : List Byte) : (s.output bs).mem = s.mem := rfl
@[simp] theorem State.output_status (bs : List Byte) : (s.output bs).status = s.status := rfl
@[simp] theorem State.output_out (bs : List Byte) : (s.output bs).out = s.out ++ bs := rfl
@[simp] theorem State.output_polls (bs : List Byte) : (s.output bs).polls = s.polls := rfl
@[simp] theorem State.output_chars (bs : List Byte) : (s.output bs).chars = s.chars := rfl
@[simp] theorem State.output_silent (bs : List Byte) : (s.output bs).silent = s.silent := rfl
@[simp] theorem State.output_polled (bs : List Byte) : (s.output bs).polled = s.polled := rfl
@[simp] theorem State.output_taken (bs : List Byte) : (s.output bs).taken = s.taken := rfl
@[simp] theorem State.output_reg (bs : List Byte) (j : Reg) : (s.output bs).reg j = s.reg j := rfl
@[simp] theorem State.output_cell (bs : List Byte) (x : Word) : (s.output bs).cell x = s.cell x := rfl

/-! ### raiseFatal -/

@[simp] theorem State.raiseFatal_regs (r : FatalReason) : (s.raiseFatal r).regs = s.regs := rfl
@[simp] theorem State.raiseFatal_pc (r : FatalReason) : (s.raiseFatal r).pc = s.pc := rfl
@[simp] theorem State.raiseFatal_cond (r : FatalReason) : (s.raiseFatal r).cond = s.cond := rfl
@[simp] theorem State.raiseFatal_mem (r : FatalReason) : (s.raiseFatal r).mem = s.mem := rfl
@[simp] theorem State.raiseFatal_status (r : FatalReason) : (s.raiseFatal r).status = .faulted r := rfl
@[simp] theorem State.raiseFatal_out (r : FatalReason) : (s.raiseFatal r).out = s.out := rfl
@[simp] theorem State.raiseFatal_polls (r : FatalReason) : (s.raiseFatal r).polls = s.polls := rfl
@[simp] theorem State.raiseFatal_chars (r : FatalReason) : (s.raiseFatal r).chars = s.chars := rfl
@[simp] theorem State.raiseFatal_silent (r : FatalReason) : (s.raiseFatal r).silent = s.silent := rfl
@[simp] theorem State.raiseFatal_polled (r : FatalReason) : (s.raiseFatal r).polled = s.polled := rfl
@[simp] theorem State.raiseFatal_taken (r : FatalReason) : (s.raiseFatal r).taken = s.taken := rfl
@[simp] theorem State.raiseFatal_reg (r : FatalReason) (j : Reg) : (s.raiseFatal r).reg j = s.reg j := rfl
@[simp] theorem State.raiseFatal_cell (r : FatalReason) (x : Word) : (s.raiseFatal r).cell x = s.cell x := rfl

/-! ### enterTrap -/

@[simp] theorem State.enterTrap_regs : (s.enterTrap).regs = s.regs.set .r7 s.pc := rfl
@[simp] theorem State.enterTrap_pc : (s.enterTrap).pc = s.pc := rfl
@[simp] theorem State.enterTrap_cond : (s.enterTrap).cond = s.cond := rfl
@[simp] theorem State.enterTrap_mem : (s.enterTrap).mem = s.mem := rfl
@[simp] theorem State.enterTrap_status : (s.enterTrap).status = s.status := rfl
@[simp] theorem State.enterTrap_out : (s.enterTrap).out = s.out := rfl
@[simp] theorem State.enterTrap_polls : (s.enterTrap).polls = s.polls := rfl
@[simp] theorem State.enterTrap_chars : (s.enterTrap).chars = s.chars := rfl
@[simp] theorem State.enterTrap_silent : (s.enterTrap).silent = s.silent := rfl
@[simp] theorem State.enterTrap_polled : (s.enterTrap).polled = s.polled := rfl
@[simp] theorem State.enterTrap_taken : (s.enterTrap).taken = s.taken := rfl
@[simp] theorem State.enterTrap_cell (x : Word) : (s.enterTrap).cell x = s.cell x := rfl

end Sys2Proof.Machine
end

