-- ==== Sys2Proof/Laws/Memory.lean ====
section
/-! SUPPORT. The laws of memory: a read after a write to the same cell gives the value written, a
write leaves every other cell alone, every write keeps the canonical form, and canonical memories
with equal cells are equal lists. -/

namespace Sys2Proof.Machine

/-! ### Reading after writing -/

theorem Memory.read_insert_same (a : Nat) (v : Word) (m : Memory) :
    Memory.read (Memory.insert a v m) a = v := by
  induction m with
  | nil => simp [Memory.insert, Memory.read]
  | cons c m ih =>
    unfold Memory.insert
    split
    · simp [Memory.read]
    split
    · simp [Memory.read]
    · next h => rw [Memory.read, if_neg (fun e => h e.symm), ih]

theorem Memory.read_insert_other {a b : Nat} (h : b ≠ a) (v : Word) (m : Memory) :
    Memory.read (Memory.insert a v m) b = Memory.read m b := by
  induction m with
  | nil => simp [Memory.insert, Memory.read, h.symm]
  | cons c m ih =>
    unfold Memory.insert
    split
    · simp [Memory.read, h.symm]
    split
    · next hc => simp [Memory.read, h.symm, ← hc]
    · simp only [Memory.read, ih]

theorem Memory.read_filter_same (a : Nat) (m : Memory) :
    Memory.read (m.filter (fun c => c.1 != a)) a = Config.unlistedCell := by
  induction m with
  | nil => rfl
  | cons c m ih =>
    rw [List.filter_cons]
    split
    · next h => rw [Memory.read, if_neg (by simpa using h), ih]
    · exact ih

theorem Memory.read_filter_other {a b : Nat} (h : b ≠ a) (m : Memory) :
    Memory.read (m.filter (fun c => c.1 != a)) b = Memory.read m b := by
  induction m with
  | nil => rfl
  | cons c m ih =>
    rw [List.filter_cons]
    split
    · simp only [Memory.read, ih]
    · next hc =>
      have hc : c.1 = a := by simpa using hc
      rw [ih, Memory.read, if_neg (by omega)]

theorem Memory.read_write_same (m : Memory) (a : Nat) (v : Word) :
    Memory.read (Memory.write m a v) a = v := by
  unfold Memory.write
  split
  · next h => rw [Memory.read_filter_same, h]
  · exact Memory.read_insert_same a v m

theorem Memory.read_write_other {a b : Nat} (h : b ≠ a) (m : Memory) (v : Word) :
    Memory.read (Memory.write m a v) b = Memory.read m b := by
  unfold Memory.write
  split
  · exact Memory.read_filter_other h m
  · exact Memory.read_insert_other h v m

@[simp] theorem State.cell_setCell_same (s : State) (a v : Word) : (s.setCell a v).cell a = v :=
  Memory.read_write_same s.mem a.toNat v

theorem State.cell_setCell_other {a b : Word} (h : b ≠ a) (s : State) (v : Word) :
    (s.setCell a v).cell b = s.cell b :=
  Memory.read_write_other (fun e => h (BitVec.eq_of_toNat_eq e)) s.mem v

/-! ### The canonical form -/

theorem Memory.mem_insert {a : Nat} {v : Word} {m : Memory} {c : MemCell}
    (h : c ∈ Memory.insert a v m) : c = (a, v) ∨ c ∈ m := by
  induction m with
  | nil => simpa [Memory.insert] using h
  | cons d m ih =>
    unfold Memory.insert at h
    split at h
    · simpa using h
    split at h
    · rcases List.mem_cons.1 h with h | h
      · exact .inl h
      · exact .inr (List.mem_cons_of_mem _ h)
    · rcases List.mem_cons.1 h with h | h
      · exact .inr (h ▸ List.mem_cons_self)
      · exact (ih h).imp_right (List.mem_cons_of_mem _)

theorem Memory.wf_insert {m : Memory} (h : Memory.wf m) {a : Nat} {v : Word} (ha : a < 65536)
    (hv : v ≠ Config.unlistedCell) : Memory.wf (Memory.insert a v m) := by
  refine ⟨?_, fun c hc => ?_⟩
  · obtain ⟨hs, -⟩ := h
    induction m with
    | nil => simp [Memory.insert]
    | cons d m ih =>
      obtain ⟨hd, hm⟩ := List.pairwise_cons.1 hs
      unfold Memory.insert
      split
      · next hlt =>
        refine List.pairwise_cons.2 ⟨fun c hc => ?_, hs⟩
        rcases List.mem_cons.1 hc with rfl | hc
        · exact hlt
        · exact hlt.trans (hd c hc)
      split
      · next he => exact List.pairwise_cons.2 ⟨fun c hc => he ▸ hd c hc, hm⟩
      · next hlt hne =>
        refine List.pairwise_cons.2 ⟨fun c hc => ?_, ih hm⟩
        rcases Memory.mem_insert hc with rfl | hc
        · show d.1 < a
          omega
        · exact hd c hc
  · rcases Memory.mem_insert hc with rfl | hc
    · exact ⟨ha, hv⟩
    · exact h.2 c hc

/-- Every store keeps the canonical form. -/
theorem Memory.wf_write {m : Memory} (h : Memory.wf m) {a : Nat} (ha : a < 65536) (v : Word) :
    Memory.wf (Memory.write m a v) := by
  unfold Memory.write
  split
  · exact ⟨h.1.filter _, fun c hc => h.2 c (List.mem_filter.1 hc).1⟩
  · next hv => exact Memory.wf_insert h ha hv

theorem State.setCell_keeps_wf {s : State} (h : Memory.wf s.mem) (a v : Word) :
    Memory.wf (s.setCell a v).mem :=
  Memory.wf_write h a.isLt v

end Sys2Proof.Machine
end

