-- ==== Sys2Proof/Laws/Ops.lean ====
section
/-! SUPPORT. One lemma for each shared operation that says once everything it can do. -/

namespace Sys2Proof.Machine

/-! ### Registers -/

@[simp] theorem Regs.get_set_same (g : Regs) (i : Reg) (v : Word) : (g.set i v).get i = v := by
  cases i <;> rfl

theorem Regs.get_set_other {i j : Reg} (h : j ≠ i) (g : Regs) (v : Word) :
    (g.set i v).get j = g.get j := by
  cases i <;> cases j <;> first | rfl | exact absurd rfl h

@[simp] theorem State.reg_setReg_same (s : State) (i : Reg) (v : Word) :
    (s.setReg i v).reg i = v :=
  Regs.get_set_same s.regs i v

theorem State.reg_setReg_other {i j : Reg} (h : j ≠ i) (s : State) (v : Word) :
    (s.setReg i v).reg j = s.reg j :=
  Regs.get_set_other h s.regs v

@[simp] theorem State.reg_writeResult_same (s : State) (i : Reg) (v : Word) :
    (s.writeResult i v).reg i = v :=
  Regs.get_set_same s.regs i v

theorem State.reg_writeResult_other {i j : Reg} (h : j ≠ i) (s : State) (v : Word) :
    (s.writeResult i v).reg j = s.reg j :=
  Regs.get_set_other h s.regs v

/-! ### The host -/

/-- A true `HostPending` has a byte ready for the read that follows (rule R31). -/
theorem State.nextByte_of_pendingByte {s : State} {c : Byte} (h : s.pendingByte = some c) :
    s.nextByte = some c := by
  unfold State.pendingByte at h
  split at h
  · exact h
  · cases h

/-- `HostRead` blocks exactly where no byte is listed and the host is silent (rule R32). -/
theorem State.nextByte_eq_none {s : State} :
    s.nextByte = none ↔ s.chars = [] ∧ s.silent = true := by
  unfold State.nextByte
  cases s.chars <;> cases s.silent <;> simp

/-! ### The memory unit -/

theorem State.memRead_plain {a : Word} (h : a ≠ Config.kbsr) (s : State) :
    s.memRead a = (s.cell a, s) :=
  if_neg h

theorem State.memRead_kbsr (s : State) : s.memRead Config.kbsr = pollKeyboard s := if_pos rfl

/-- Everything a read through the memory unit can do: a plain read, a poll that latches a byte, or a
poll that finds none (rules R41 and R42). -/
theorem State.memRead_cases (s : State) (a : Word) :
    (a ≠ Config.kbsr ∧ s.memRead a = (s.cell a, s)) ∨
    (∃ c, a = Config.kbsr ∧ s.pendingByte = some c ∧ s.memRead a =
      (0x8000, (s.dropPoll.dropByte.setCell Config.kbdr (zext16 c)).setCell Config.kbsr 0x8000)) ∨
    (a = Config.kbsr ∧ s.pendingByte = none ∧
      s.memRead a = (0x0000, s.dropPoll.setCell Config.kbsr 0x0000)) := by
  by_cases h : a = Config.kbsr
  · subst h
    rw [State.memRead_kbsr]
    unfold pollKeyboard
    cases s.pendingByte with
    | some c => exact .inr (.inl ⟨c, rfl, rfl, rfl⟩)
    | none => exact .inr (.inr ⟨rfl, rfl, rfl⟩)
  · exact .inl ⟨h, State.memRead_plain h s⟩

/-- A read through the memory unit keeps the memory canonical. -/
theorem State.memRead_keeps_wf {s : State} (h : Memory.wf s.mem) (a : Word) :
    Memory.wf (s.memRead a).2.mem := by
  obtain ⟨-, e⟩ | ⟨c, -, -, e⟩ | ⟨-, -, e⟩ := s.memRead_cases a <;> rw [e]
  · exact h
  · exact State.setCell_keeps_wf (State.setCell_keeps_wf h _ _) _ _
  · exact State.setCell_keeps_wf h _ _

/-- A read through the memory unit changes no register, flag, status or output. -/
theorem State.memRead_keeps (s : State) (a : Word) :
    (s.memRead a).2.regs = s.regs ∧ (s.memRead a).2.pc = s.pc ∧ (s.memRead a).2.cond = s.cond ∧
      (s.memRead a).2.status = s.status ∧ (s.memRead a).2.out = s.out ∧
      (s.memRead a).2.silent = s.silent := by
  obtain ⟨-, e⟩ | ⟨c, -, -, e⟩ | ⟨-, -, e⟩ := s.memRead_cases a <;> rw [e] <;> simp

/-- A read through the memory unit changes no cell but the two keyboard cells. -/
theorem State.memRead_cell (s : State) (a : Word) {b : Word} (hs : b ≠ Config.kbsr)
    (hd : b ≠ Config.kbdr) : (s.memRead a).2.cell b = s.cell b := by
  obtain ⟨-, e⟩ | ⟨c, -, -, e⟩ | ⟨-, -, e⟩ := s.memRead_cases a <;> rw [e]
  · simp only [State.cell_setCell_other hs, State.cell_setCell_other hd]
    simp
  · simp only [State.cell_setCell_other hs]
    simp

/-! ### Sign extension -/

/-- Rule R11's computation is sign extension, at each of the four widths. -/
theorem sext_eq_signExtend {n : Nat} (h : n ∈ [5, 6, 9, 11]) (f : BitVec n) :
    sext f = f.signExtend 16 := by
  apply BitVec.eq_of_getLsbD_eq
  intro i hi
  have hn : 0 < n ∧ n < 16 := by simp at h; omega
  have hmsb : f.msb = f.getLsbD (n - 1) := BitVec.msb_eq_getLsbD_last f
  rw [BitVec.getLsbD_signExtend, hmsb]
  unfold sext
  cases hb : f.getLsbD (n - 1)
  · simp only [Bool.false_eq_true, if_false, BitVec.getLsbD_setWidth, hi, decide_true,
      Bool.true_and]
    by_cases hin : i < n
    · simp [hin]
    · simp [hin, BitVec.getLsbD_of_ge f i (by omega)]
  · simp only [if_true, BitVec.getLsbD_or, BitVec.getLsbD_setWidth, hi, decide_true,
      Bool.true_and, BitVec.getLsbD_shiftLeft]
    by_cases hin : i < n
    · simp [hin]
    · have h1 : (0xFFFF#16).getLsbD (i - n) = true := by
        have : i - n < 16 := by omega
        generalize i - n = k at this
        interval_cases k <;> rfl
      simp [hin, h1]

/-! ### The string scan -/

/-- One turn of the scan loop, as the pseudocode of rules R83 and R85 has it. -/
theorem scanFrom_unfold (bytesOf : Word → List Byte) (m : Memory) (a : Word) :
    scanFrom bytesOf m a =
      if a = Config.kbsr then ([], true)
      else if Memory.read m a.toNat = 0 then ([], false)
      else
        (bytesOf (Memory.read m a.toNat) ++ (scanFrom bytesOf m (a + 1)).1,
          (scanFrom bytesOf m (a + 1)).2) := by
  unfold scanFrom
  by_cases h : a = Config.kbsr
  · subst h
    simp [scanString]
  · have hd : (Config.kbsr - a).toNat = (Config.kbsr - (a + 1)).toNat + 1 := by
      have ha := a.isLt
      have hne : a.toNat ≠ 65024 := fun e => h (BitVec.eq_of_toNat_eq e)
      have hk : (0xFE00 : Word).toNat = 65024 := rfl
      have h1 : (1 : Word).toNat = 1 := rfl
      simp only [Config.kbsr, BitVec.toNat_sub, BitVec.toNat_add, hk, h1]
      omega
    rw [if_neg h, hd, scanString]

end Sys2Proof.Machine
end

