-- ==== Sys2Proof/Laws/PerInstr.lean ====
section
/-! SUPPORT. The per-instruction family OpcodeBits: an instruction's word carries in bits 15:12 the
opcode that rule R55 gives its handler. -/

namespace Sys2Proof.Laws.OpcodeBits

/-- The opcode of an instruction in the map of rule R55. -/
def opcodeOf : Instr → BitVec 4
  | .br _ _ => 0x0
  | .addReg _ _ _ => 0x1
  | .addImm _ _ _ => 0x1
  | .ld _ _ => 0x2
  | .st _ _ => 0x3
  | .jsr _ => 0x4
  | .jsrr _ => 0x4
  | .andReg _ _ _ => 0x5
  | .andImm _ _ _ => 0x5
  | .ldr _ _ _ => 0x6
  | .str _ _ _ => 0x7
  | .rti => 0x8
  | .not _ _ => 0x9
  | .ldi _ _ => 0xA
  | .sti _ _ => 0xB
  | .jmp _ => 0xC
  | .ret => 0xC
  | .res => 0xD
  | .lea _ _ => 0xE
  | .trap _ => 0xF
  | .getc => 0xF
  | .out => 0xF
  | .puts => 0xF
  | .inp => 0xF
  | .putsp => 0xF
  | .halt => 0xF

def Statement (i : Instr) : Prop := Field.opcode (encode i) = opcodeOf i

theorem addReg (dr sr1 sr2 : Reg) : Statement (.addReg dr sr1 sr2) := packRegReg_opcode ..
theorem addImm (dr sr1 : Reg) (imm5 : BitVec 5) : Statement (.addImm dr sr1 imm5) :=
  packRegReg_opcode ..
theorem andReg (dr sr1 sr2 : Reg) : Statement (.andReg dr sr1 sr2) := packRegReg_opcode ..
theorem andImm (dr sr1 : Reg) (imm5 : BitVec 5) : Statement (.andImm dr sr1 imm5) :=
  packRegReg_opcode ..
theorem not (dr sr : Reg) : Statement (.not dr sr) := packRegReg_opcode ..
theorem br (nzp : BitVec 3) (off : BitVec 9) : Statement (.br nzp off) := packOffset9_opcode ..
theorem jmp (baseR : Reg) : Statement (.jmp baseR) := packRegReg_opcode ..
theorem ret : Statement .ret := packRegReg_opcode ..
theorem jsr (off : BitVec 11) : Statement (.jsr off) := packOffset11_opcode ..
theorem jsrr (baseR : Reg) : Statement (.jsrr baseR) := packRegReg_opcode ..
theorem ld (dr : Reg) (off : BitVec 9) : Statement (.ld dr off) := packOffset9_opcode ..
theorem ldi (dr : Reg) (off : BitVec 9) : Statement (.ldi dr off) := packOffset9_opcode ..
theorem ldr (dr baseR : Reg) (off : BitVec 6) : Statement (.ldr dr baseR off) :=
  packRegReg_opcode ..
theorem lea (dr : Reg) (off : BitVec 9) : Statement (.lea dr off) := packOffset9_opcode ..
theorem st (sr : Reg) (off : BitVec 9) : Statement (.st sr off) := packOffset9_opcode ..
theorem sti (sr : Reg) (off : BitVec 9) : Statement (.sti sr off) := packOffset9_opcode ..
theorem str (sr baseR : Reg) (off : BitVec 6) : Statement (.str sr baseR off) :=
  packRegReg_opcode ..
theorem trap (v : BitVec 8) : Statement (.trap v) := packVect8_opcode ..
theorem getc : Statement .getc := packVect8_opcode ..
theorem out : Statement .out := packVect8_opcode ..
theorem puts : Statement .puts := packVect8_opcode ..
theorem inp : Statement .inp := packVect8_opcode ..
theorem putsp : Statement .putsp := packVect8_opcode ..
theorem halt : Statement .halt := packVect8_opcode ..
theorem rti : Statement .rti := packVect8_opcode ..
theorem res : Statement .res := packVect8_opcode ..

end Sys2Proof.Laws.OpcodeBits
end

