-- ==== Sys2Proof/Laws/Trap.lean ====
section
/-! SUPPORT. What trap entry, the string scan and the trap routines do, said once each. -/

namespace Sys2Proof.Machine

/-! ### Trap entry -/

@[simp] theorem State.reg_enterTrap_r7 (s : State) : s.enterTrap.reg .r7 = s.pc :=
  State.reg_setReg_same s .r7 s.pc

theorem State.reg_enterTrap_other {r : Reg} (h : r ≠ .r7) (s : State) :
    s.enterTrap.reg r = s.reg r :=
  State.reg_setReg_other h s s.pc

@[simp] theorem State.nextByte_enterTrap (s : State) : s.enterTrap.nextByte = s.nextByte := rfl

/-! ### The string scan -/

/-- Everything the scan can find: after `n` words that are not zero, none of them at 0xFE00, it is at
0xFE00 or at a zero word, and it has written the bytes of those `n` words. -/
theorem scanString_spec (bytesOf : Word → List Byte) (m : Memory) (d : Nat) (a : Word)
    (hd : (Config.kbsr - a).toNat = d) :
    ∃ n ≤ d,
      (∀ k < n, a + BitVec.ofNat 16 k ≠ Config.kbsr ∧
        Memory.read m (a + BitVec.ofNat 16 k).toNat ≠ 0) ∧
      (scanString bytesOf m d a).1 = (List.range n).flatMap
        (fun k => bytesOf (Memory.read m (a + BitVec.ofNat 16 k).toNat)) ∧
      ((a + BitVec.ofNat 16 n = Config.kbsr ∧ (scanString bytesOf m d a).2 = true) ∨
        (a + BitVec.ofNat 16 n ≠ Config.kbsr ∧
          Memory.read m (a + BitVec.ofNat 16 n).toNat = 0 ∧
          (scanString bytesOf m d a).2 = false)) := by
  have hk : (Config.kbsr : Word).toNat = 65024 := rfl
  have h1 : (1 : Word).toNat = 1 := rfl
  induction d generalizing a with
  | zero =>
    have ha : a = Config.kbsr := by
      apply BitVec.eq_of_toNat_eq
      have := a.isLt
      rw [BitVec.toNat_sub, hk] at hd
      omega
    subst ha
    exact ⟨0, le_rfl, by simp, by simp [scanString], .inl ⟨by simp, rfl⟩⟩
  | succ d ih =>
    have ha : a ≠ Config.kbsr := by
      rintro rfl
      simp at hd
    by_cases hz : Memory.read m a.toNat = 0
    · exact ⟨0, by omega, by simp, by simp [scanString, hz],
        .inr ⟨by simpa using ha, by simpa using hz, by simp [scanString, hz]⟩⟩
    · have hd' : (Config.kbsr - (a + 1)).toNat = d := by
        have := a.isLt
        simp only [BitVec.toNat_sub, BitVec.toNat_add, hk, h1] at hd ⊢
        omega
      have hs : ∀ k, a + 1 + BitVec.ofNat 16 k = a + BitVec.ofNat 16 (k + 1) := by
        intro k
        rw [BitVec.ofNat_add, BitVec.add_comm (BitVec.ofNat 16 k), ← BitVec.add_assoc]
        rfl
      obtain ⟨n, hn, hb, ho, he⟩ := ih (a + 1) hd'
      simp only [hs] at hb ho he
      refine ⟨n + 1, by omega, fun k hlt => ?_, ?_, ?_⟩
      · cases k with
        | zero => exact ⟨by simpa using ha, by simpa using hz⟩
        | succ k => exact hb k (by omega)
      · rw [scanString, if_neg hz, ho, List.range_succ_eq_map, List.flatMap_cons, List.flatMap_map]
        simp
      · rw [scanString, if_neg hz]
        exact he

/-- What a string routine leaves: the bytes written, and FAULTED where the scan reached 0xFE00. -/
theorem State.writeString_cases (s : State) (r : List Byte × Bool) :
    (r.2 = true ∧ s.writeString r = (s.output r.1).raiseFatal .stringAtKbsr) ∨
      (r.2 = false ∧ s.writeString r = s.output r.1) := by
  unfold State.writeString
  cases r.2 <;> simp

/-! ### The routines -/

theorem execGetc_next {s : State} {c : Byte} (h : s.nextByte = some c) :
    execGetc s = .next (s.enterTrap.dropByte.storeChar c) := by
  unfold execGetc routineGetc
  rw [State.nextByte_enterTrap, h]
  rfl

theorem execGetc_blocks {s : State} (h : s.nextByte = none) :
    execGetc s = .fault .hostReadBlocks := by
  unfold execGetc routineGetc
  rw [State.nextByte_enterTrap, h]

theorem execIn_next {s : State} {c : Byte} (h : s.nextByte = some c) :
    execIn s =
      .next ((((s.enterTrap.output inPrompt).dropByte).output [c]).storeChar c) := by
  unfold execIn routineIn
  rw [State.nextByte_enterTrap, h]
  rfl

theorem execIn_blocks {s : State} (h : s.nextByte = none) :
    execIn s = .fault .hostReadBlocks := by
  unfold execIn routineIn
  rw [State.nextByte_enterTrap, h]

theorem execPuts_eq (s : State) :
    execPuts s = .next (s.enterTrap.writeString (scanFrom putsBytes s.mem (s.reg .r0))) := rfl

theorem execPutsp_eq (s : State) :
    execPutsp s = .next (s.enterTrap.writeString (scanFrom putspBytes s.mem (s.reg .r0))) := rfl

/-- A selector outside 0x20..0x25 is fatal after trap entry (rule R88). -/
theorem execTrap_undefined {v : BitVec 8} (h : v.toNat < 0x20 ∨ 0x25 < v.toNat) (s : State) :
    execTrap v s = .next (s.enterTrap.raiseFatal .undefinedTrap) := by
  unfold execTrap trapRoutine
  repeat rw [if_neg (by rintro rfl; revert h; decide)]
  rfl

/-- TRAP runs as one of the named routines, or is fatal (rule R80). -/
theorem execTrap_cases (v : BitVec 8) (s : State) :
    (v = 0x20#8 ∧ execTrap v s = execGetc s) ∨ (v = 0x21#8 ∧ execTrap v s = execOut s) ∨
      (v = 0x22#8 ∧ execTrap v s = execPuts s) ∨ (v = 0x23#8 ∧ execTrap v s = execIn s) ∨
      (v = 0x24#8 ∧ execTrap v s = execPutsp s) ∨ (v = 0x25#8 ∧ execTrap v s = execHalt s) ∨
      ((v.toNat < 0x20 ∨ 0x25 < v.toNat) ∧
        execTrap v s = .next (s.enterTrap.raiseFatal .undefinedTrap)) := by
  by_cases h : v.toNat < 0x20 ∨ 0x25 < v.toNat
  · simp [h, execTrap_undefined h]
  · have hv : v = 0x20#8 ∨ v = 0x21#8 ∨ v = 0x22#8 ∨ v = 0x23#8 ∨ v = 0x24#8 ∨ v = 0x25#8 := by
      simp only [← BitVec.toNat_inj, BitVec.toNat_ofNat]
      omega
    rcases hv with rfl | rfl | rfl | rfl | rfl | rfl
    · exact .inl ⟨rfl, rfl⟩
    · exact .inr (.inl ⟨rfl, rfl⟩)
    · exact .inr (.inr (.inl ⟨rfl, rfl⟩))
    · exact .inr (.inr (.inr (.inl ⟨rfl, rfl⟩)))
    · exact .inr (.inr (.inr (.inr (.inl ⟨rfl, rfl⟩))))
    · exact .inr (.inr (.inr (.inr (.inr (.inl ⟨rfl, rfl⟩)))))

end Sys2Proof.Machine
end

