-- ==== Sys2Proof/Laws/Step.lean ====
section
/-! SUPPORT. What a step can do, said once. -/

namespace Sys2Proof.Machine

/-- A step to a next state is a fetch and then the instruction the word decodes to, from RUNNING. -/
theorem step_next {s t : State} (h : step s = .next t) :
    s.status = .running ∧ exec (decode s.fetch.1) s.fetch.2 = .next t := by
  unfold step at h
  split at h
  · exact ⟨‹_›, h⟩
  · cases h
  · cases h

theorem step_running {s : State} (h : s.status = .running) :
    step s = exec (decode s.fetch.1) s.fetch.2 := by
  unfold step
  rw [h]

/-- The fetch changes no register, flag, status or output, and leaves PC one further on. -/
theorem State.fetch_keeps (s : State) :
    s.fetch.2.regs = s.regs ∧ s.fetch.2.pc = s.pc + 1 ∧ s.fetch.2.cond = s.cond ∧
      s.fetch.2.status = s.status ∧ s.fetch.2.out = s.out ∧ s.fetch.2.silent = s.silent := by
  obtain ⟨h1, -, h3, h4, h5, h6⟩ := s.memRead_keeps s.pc
  exact ⟨h1, rfl, h3, h4, h5, h6⟩

/-- A fetch from any address but 0xFE00 changes PC and nothing else. -/
theorem State.fetch_plain {s : State} (h : s.pc ≠ Config.kbsr) :
    s.fetch = (s.cell s.pc, s.setPc (s.pc + 1)) := by
  unfold State.fetch
  rw [State.memRead_plain h]

end Sys2Proof.Machine
end

