-- ==== Sys2Proof/Tests/Slice0.lean ====
section
/-! SUPPORT. The model's own tests. Expected values come from spec/95_test_vectors.md (T1 to T9, V1 to
V58) and from the worked examples of the rules; each test names its source. Then a witness for the
hypotheses of every obligation that has some. -/

namespace Sys2Proof.Tests

open Sys2Proof.Machine

/-- The reset state with PC at an address and one word in the cell there. -/
def start (pc w : Word) : State := { State.reset with pc := pc, mem := Memory.write [] pc.toNat w }

/-- The next state, if there is one. -/
def after (o : Host.Outcome State Fault Refusal) : Option State :=
  match o with
  | .next t => some t
  | .fault _ => none
  | .refused _ => none

/-- The fault, if there is one. -/
def faultOf (o : Host.Outcome State Fault Refusal) : Option Fault :=
  match o with
  | .next _ => none
  | .fault f => some f
  | .refused _ => none

/-- One step from a state, and what a function sees of the next state. -/
def look {α : Type} (s : State) (f : State → α) : Option α := (after (step s)).map f

/-! ### WellFormed refuses the ill-formed -/

theorem test_jmp_r7_is_ill_formed : WellFormed (.jmp .r7) = false := by decide
theorem test_trap_x20_is_ill_formed : WellFormed (.trap 0x20) = false := by decide
theorem test_trap_x25_is_ill_formed : WellFormed (.trap 0x25) = false := by decide
theorem test_neighbours_are_well_formed :
    WellFormed (.jmp .r6) = true ∧ WellFormed (.trap 0x1F) = true ∧
      WellFormed (.trap 0x26) = true := by decide

/-! ### Decoding, each word written out from the patterns of rule R56 -/

theorem test_decode_addReg : decode 0b0001011101011010 = .addReg .r3 .r5 .r2 := by decide
theorem test_decode_addImm : decode 0b0001000001111101 = .addImm .r0 .r1 (-3) := by decide
theorem test_decode_andReg : decode 0b0101000001000010 = .andReg .r0 .r1 .r2 := by decide
theorem test_decode_andImm : decode 0b0101110011101111 = .andImm .r6 .r3 15 := by decide
theorem test_decode_not : decode 0b1001011010111111 = .not .r3 .r2 := by decide
theorem test_decode_br : decode 0b0000101000000101 = .br 0b101 5 := by decide
theorem test_decode_jmp : decode 0b1100000110000000 = .jmp .r6 := by decide
theorem test_decode_ret : decode 0b1100000111000000 = .ret := by decide
theorem test_decode_jsr : decode 0b0100110000000000 = .jsr (-1024) := by decide
theorem test_decode_jsrr : decode 0b0100011010010101 = .jsrr .r2 := by decide
theorem test_decode_ld : decode 0b0010010000000010 = .ld .r2 2 := by decide
theorem test_decode_ldi : decode 0b1010100000000011 = .ldi .r4 3 := by decide
theorem test_decode_ldr : decode 0b0110010001100000 = .ldr .r2 .r1 (-32) := by decide
theorem test_decode_lea : decode 0b1110001111111111 = .lea .r1 (-1) := by decide
theorem test_decode_st : decode 0b0011011000000100 = .st .r3 4 := by decide
theorem test_decode_sti : decode 0b1011000000000001 = .sti .r0 1 := by decide
theorem test_decode_str : decode 0b0111011001000001 = .str .r3 .r1 1 := by decide
theorem test_decode_trap : decode 0b1111000000100110 = .trap 0x26 := by decide
theorem test_decode_getc : decode 0b1111000000100000 = .getc := by decide
theorem test_decode_out : decode 0b1111000000100001 = .out := by decide
theorem test_decode_puts : decode 0b1111000000100010 = .puts := by decide
theorem test_decode_in : decode 0b1111000000100011 = .inp := by decide
theorem test_decode_putsp : decode 0b1111000000100100 = .putsp := by decide
theorem test_decode_halt : decode 0b1111000100100101 = .halt := by decide
theorem test_decode_rti : decode 0b1000000000000000 = .rti := by decide
theorem test_decode_res : decode 0b1101000100100011 = .res := by decide

/-- The canonical words of rule R59, from the rules' examples. -/
theorem test_encode_examples :
    encode (.not .r3 .r2) = 0x96BF ∧ encode (.addImm .r0 .r1 (-3)) = 0x107D ∧
      encode .ret = 0xC1C0 ∧ encode (.jsr 2) = 0x4802 ∧ encode .halt = 0xF025 := by decide

/-- An instruction is exactly one word (rule R53). -/
theorem test_decode_lengths :
    decodeWords [] = .error .noWord ∧ decodeWords [0xF025, 0x1234] = .ok (.halt, [0x1234]) ∧
      decodeTableWord 16 0xF025 = some .halt ∧ decodeTableWord 17 0xF025 = none := by
  exact ⟨rfl, rfl, rfl, rfl⟩

/-! ### Sign extension (T1) -/

theorem test_sign_extension : sext (0x1F : BitVec 5) = 0xFFFF ∧ sext (0x0F : BitVec 5) = 0x000F := by
  decide

/-! ### Operate instructions -/

/-- V1. -/
theorem test_add_imm_overflow_wraps :
    look ((start 0x3000 0x1061).setReg .r1 0x7FFF) (fun t => (t.reg .r0, t.pc, t.cond)) =
      some (0x8000, 0x3001, .neg) := by decide
/-- V3. -/
theorem test_add_imm_lowest :
    look ((start 0x3000 0x1070).setReg .r1 0x0015) (fun t => (t.reg .r0, t.pc, t.cond)) =
      some (0x0005, 0x3001, .pos) := by decide
/-- V5. -/
theorem test_add_doubles :
    look ((start 0x3000 0x1241).setReg .r1 0x4000) (fun t => (t.reg .r1, t.pc, t.cond)) =
      some (0x8000, 0x3001, .neg) := by decide
/-- V6. -/
theorem test_add_ignores_bits_4_3 :
    look ((start 0x3000 0x1058).setReg .r1 0x0003) (fun t => (t.reg .r0, t.pc, t.cond)) =
      some (0x0003, 0x3001, .pos) := by decide
/-- T4. -/
theorem test_and_reg :
    look (((start 0x3000 0x5042).setReg .r1 0xFF0F).setReg .r2 0x0FF0)
      (fun t => (t.reg .r0, t.cond)) = some (0x0F00, .pos) := by decide
/-- V8. -/
theorem test_and_imm_minus_one :
    look ((start 0x3000 0x507F).setReg .r1 0x8001) (fun t => (t.reg .r0, t.cond)) =
      some (0x8001, .neg) := by decide
/-- V9. -/
theorem test_and_imm_clears_high_bits :
    look ((start 0x3000 0x506F).setReg .r1 0xFFF3) (fun t => (t.reg .r0, t.cond)) =
      some (0x0003, .pos) := by decide
/-- V10. -/
theorem test_not_ffff :
    look ((start 0x3000 0x903F).setReg .r0 0xFFFF) (fun t => (t.reg .r0, t.cond)) =
      some (0x0000, .zro) := by decide
/-- V13. -/
theorem test_not_ignores_low_bits :
    look ((start 0x3000 0x9040).setReg .r1 0x00FF) (fun t => (t.reg .r0, t.cond)) =
      some (0xFF00, .neg) := by decide

/-! ### Data movement -/

/-- V14. -/
theorem test_ld_wraps_up :
    look ((start 0xFFFE 0x2201).setCell 0x0000 0x0005) (fun t => (t.reg .r1, t.pc, t.cond)) =
      some (0x0005, 0xFFFF, .pos) := by decide
/-- V16. -/
theorem test_ld_reads_its_own_word :
    look (start 0x3000 0x25FF) (fun t => (t.reg .r2, t.pc, t.cond)) =
      some (0x25FF, 0x3001, .pos) := by decide
/-- V18: POLL = true, CHAR = 41. -/
theorem test_ldi_polls :
    look { (start 0x3000 0xA201).setCell 0x3002 0xFE00 with polls := [true], chars := [0x41] }
      (fun t => (t.reg .r1, t.cond, t.cell 0xFE02, t.chars)) = some (0x8000, .neg, 0x0041, []) := by
  decide
/-- V19. -/
theorem test_ldi_stale_kbdr :
    look (((start 0x3000 0xA201).setCell 0x3002 0xFE02).setCell 0xFE02 0x0037)
      (fun t => (t.reg .r1, t.pc, t.cond)) = some (0x0037, 0x3001, .pos) := by decide
/-- V17: POLL = false. -/
theorem test_ldr_polls_without_input :
    look { (((start 0x3000 0x6440).setReg .r1 0xFE00).setReg .r2 0x5555).setCell 0xFE02 0x0033
             with polls := [false] }
      (fun t => (t.reg .r2, t.cond, t.cell 0xFE02)) = some (0x0000, .zro, 0x0033) := by decide
/-- V21. -/
theorem test_ldr_lowest_offset :
    look (((start 0x3000 0x6060).setReg .r1 0x4020).setCell 0x4000 0x7FFF)
      (fun t => (t.reg .r0, t.reg .r1, t.cond)) = some (0x7FFF, 0x4020, .pos) := by decide
/-- V22. -/
theorem test_lea_wraps_and_sets_flags :
    look (start 0xFFFF 0xE000) (fun t => (t.reg .r0, t.pc, t.cond)) =
      some (0x0000, 0x0000, .zro) := by decide
/-- V23. -/
theorem test_lea_negative :
    look (start 0x8000 0xE000) (fun t => (t.reg .r0, t.pc, t.cond)) =
      some (0x8001, 0x8001, .neg) := by decide
/-- V24, with COND = NEG at the start. -/
theorem test_st_next_word :
    look { (start 0x3000 0x3600).setReg .r3 0xF025 with cond := .neg }
      (fun t => (t.cell 0x3001, t.cond, t.fetch.1)) = some (0xF025, .neg, 0xF025) := by decide
/-- V25. -/
theorem test_sti_to_kbdr :
    look (((start 0x3000 0xB001).setReg .r0 0x0055).setCell 0x3002 0xFE02)
      (fun t => (t.cell 0xFE02, t.cond)) = some (0x0055, .zro) := by decide
/-- V26: the next read of FE00 still polls. -/
theorem test_sti_to_kbsr :
    look { ((start 0x3000 0xB001).setReg .r0 0x1234).setCell 0x3002 0xFE00 with polls := [false] }
      (fun t => (t.cell 0xFE00, (t.memRead 0xFE00).1)) = some (0x1234, 0x0000) := by decide
/-- V27. -/
theorem test_str_wraps :
    look (((start 0x3000 0x7641).setReg .r1 0xFFFF).setReg .r3 0x00AA)
      (fun t => (t.cell 0x0000, t.pc, t.cond)) = some (0x00AA, 0x3001, .zro) := by decide

/-! ### Control transfer -/

/-- V28. -/
theorem test_br_mask_000 :
    look { start 0x3000 0x01FF with cond := .pos } (fun t => (t.pc, t.cond)) =
      some (0x3001, .pos) := by decide
/-- V31. -/
theorem test_br_taken_wraps :
    look (start 0x0000 0x05FE) (fun t => (t.pc, t.cond)) = some (0xFFFF, .zro) := by decide
/-- V33. -/
theorem test_jmp : look ((start 0x3000 0xC080).setReg .r2 0x1235) (·.pc) = some 0x1235 := by decide
/-- V34. -/
theorem test_ret : look ((start 0x3000 0xC1C0).setReg .r7 0x3050) (·.pc) = some 0x3050 := by decide
/-- V35. -/
theorem test_jsr_lowest :
    look (start 0x3000 0x4C00) (fun t => (t.reg .r7, t.pc)) = some (0x3001, 0x2C01) := by decide
/-- V36. -/
theorem test_jsr_highest :
    look (start 0x3000 0x4BFF) (fun t => (t.reg .r7, t.pc)) = some (0x3001, 0x3400) := by decide
/-- V37. -/
theorem test_jsrr_r7_reads_the_new_r7 :
    look ((start 0x3010 0x41C0).setReg .r7 0x5000) (fun t => (t.reg .r7, t.pc)) =
      some (0x3011, 0x3011) := by decide
/-- V38. -/
theorem test_jsrr_r0 :
    look (start 0x3010 0x4000) (fun t => (t.reg .r7, t.pc)) = some (0x3011, 0x0000) := by decide

/-! ### Traps -/

/-- V40. -/
theorem test_getc_zero :
    look { (start 0x3000 0xF020).setReg .r0 0x1111 with cond := .pos, chars := [0x00] }
      (fun t => (t.reg .r0, t.reg .r7, t.pc, t.cond)) =
      some (0x0000, 0x3001, 0x3001, .zro) := by decide
/-- V41. -/
theorem test_getc_ff_is_zero_extended :
    look { start 0x3000 0xF020 with chars := [0xFF] } (fun t => (t.reg .r0, t.cond, t.out)) =
      some (0x00FF, .pos, []) := by decide
/-- V42. -/
theorem test_out :
    look ((start 0x3000 0xF021).setReg .r0 0x1241) (fun t => (t.reg .r7, t.pc, t.out)) =
      some (0x3001, 0x3001, [0x41]) := by decide
/-- V45. -/
theorem test_puts_wraps :
    look ((((start 0x3000 0xF022).setReg .r0 0xFFFF).setCell 0xFFFF 0x0041).setCell 0x0000 0x0042)
      (fun t => (t.out, t.status)) = some ([0x41, 0x42], .running) := by decide +kernel
/-- V46. -/
theorem test_puts_at_kbsr :
    look (((start 0x3000 0xF022).setReg .r0 0xFDFF).setCell 0xFDFF 0x0041)
      (fun t => (t.out, t.reg .r7, t.status)) =
      some ([0x41], 0x3001, .faulted .stringAtKbsr) := by decide +kernel
/-- V47, for every prompt. -/
theorem test_in_echoes :
    look { start 0x3000 0xF023 with chars := [0x79] }
      (fun t => (t.reg .r0, t.reg .r7, t.cond, t.out)) =
      some (0x0079, 0x3001, .pos, [] ++ Config.inPrompt ++ [0x79]) := rfl
/-- Rule R85's example. -/
theorem test_putsp_example :
    look ((((start 0x3000 0xF024).setReg .r0 0x4000).setCell 0x4000 0x6548).setCell 0x4001 0x006C)
      (fun t => (t.out, t.status)) = some ([0x48, 0x65, 0x6C], .running) := by decide +kernel
/-- V48. -/
theorem test_putsp_low_byte_zero :
    look (((start 0x3000 0xF024).setReg .r0 0x4000).setCell 0x4000 0x4100)
      (fun t => (t.out, t.status)) = some ([0x00, 0x41], .running) := by decide +kernel
/-- V50. -/
theorem test_halt_ignores_bits_11_8 :
    look (start 0x3005 0xF125) (fun t => (t.reg .r7, t.pc, t.status, t.out)) =
      some (0x3006, 0x3006, .halted, []) := by decide
/-- V51. -/
theorem test_trap_x26_is_fatal :
    look ((start 0x3000 0xF026).setReg .r7 0x1111) (fun t => (t.reg .r7, t.pc, t.status)) =
      some (0x3001, 0x3001, .faulted .undefinedTrap) := by decide
/-- V52. -/
theorem test_trap_x00_is_fatal :
    look (start 0x3000 0xF000) (fun t => (t.reg .r7, t.pc, t.status)) =
      some (0x3001, 0x3001, .faulted .undefinedTrap) := by decide

/-! ### Fatal opcodes, the fetch path, blocking, the end -/

/-- V53. -/
theorem test_rti_is_fatal :
    look (start 0x3000 0x8000) (fun t => (t.pc, t.regs, t.status)) =
      some (0x3001, State.reset.regs, .faulted .rtiUnsupported) := by decide
/-- V54. -/
theorem test_res_is_fatal :
    look (start 0x3000 0xD123) (fun t => (t.pc, t.regs, t.status)) =
      some (0x3001, State.reset.regs, .faulted .reservedOpcode) := by decide
/-- V55: POLL = false. -/
theorem test_fetch_from_kbsr_without_input :
    look { start 0xFE00 0xF025 with cond := .pos, polls := [false] }
      (fun t => (t.pc, t.cond, t.status)) = some (0xFE01, .pos, .running) := by decide
/-- V56: POLL = true, CHAR = 62. -/
theorem test_fetch_from_kbsr_with_input :
    look { start 0xFE00 0xF025 with polls := [true], chars := [0x62] }
      (fun t => (t.pc, t.cell 0xFE02, t.status)) =
      some (0xFE01, 0x0062, .faulted .rtiUnsupported) := by decide
/-- V57: CHAR empty, and the host never supplies a byte. -/
theorem test_getc_blocks :
    faultOf (step { start 0x3000 0xF020 with silent := true }) = some .hostReadBlocks := by decide
/-- Rule R25: no step leaves HALTED. -/
theorem test_no_step_after_halt :
    faultOf (step { start 0x3000 0xF025 with status := .halted }) = some .afterHalt := by decide

/-- T9: the image bytes 30 00 12 34 F0 25. -/
theorem test_image_bytes :
    (loadImage [0x30, 0x00, 0x12, 0x34, 0xF0, 0x25] []) =
      some [(0x3000, 0x1234), (0x3001, 0xF025)] := by decide

/-! ### Witnesses: each obligation's hypotheses can be met -/

theorem witness_DecodeEncodeRoundTrip :
    WellFormed (.jmp .r0) = true ∧ WellFormed (.trap 0xFF) = true ∧ WellFormed .ret = true := by
  decide
theorem witness_IgnoredBitsDoNotMatter : ∀ dr sr, Instr.rti ≠ .not dr sr := by simp
theorem witness_SignExtensionRule_negative :
    5 ∈ [5, 6, 9, 11] ∧ (0x10 : BitVec 5).getLsbD (5 - 1) = true ∧
      (0x400 : BitVec 11).getLsbD (11 - 1) = true := by decide
theorem witness_SignExtensionRule_other :
    11 ∈ [5, 6, 9, 11] ∧ (0x0F : BitVec 5).getLsbD (5 - 1) = false ∧
      (0x3FF : BitVec 11).getLsbD (11 - 1) = false := by decide
theorem witness_RegistersAreIndependent : Reg.r7 ≠ .r0 := by decide
theorem witness_PlainReadReturnsStoredCell :
    (0xFDFF : Word) ≠ 0xFE00 ∧ (0xFE01 : Word) ≠ 0xFE00 ∧ (0xFE02 : Word) ≠ 0xFE00 := by decide
theorem witness_KeyboardPoll_pending :
    State.pendingByte { State.reset with polls := [true], chars := [0x61] } = some 0x61 := by decide
theorem witness_KeyboardPoll_not_pending :
    State.pendingByte { State.reset with polls := [false], chars := [0x61] } = none := by decide
theorem witness_SuccessivePolls_pending :
    ∃ s : State, s.polls = true :: true :: [] ∧ s.chars = 0x61 :: 0x62 :: [] :=
  ⟨{ State.reset with polls := [true, true], chars := [0x61, 0x62] }, rfl, rfl⟩
theorem witness_SuccessivePolls_not_pending : ∃ s : State, s.polls = false :: false :: [] :=
  ⟨{ State.reset with polls := [false, false] }, rfl⟩
theorem witness_HostAnswers_listed :
    ∃ s : State, s.polls = true :: [] ∧ s.chars = 0x61 :: [] ∧ s.pendingByte = some 0x61 :=
  ⟨{ State.reset with polls := [true], chars := [0x61] }, rfl, rfl, rfl⟩
theorem witness_HostAnswers_false : ∃ s : State, s.polls = false :: [] ∧ s.chars = [] ∧
    s.silent = true := ⟨{ State.reset with polls := [false], silent := true }, rfl, rfl, rfl⟩
theorem witness_StepKeepsMemoryCanonical :
    (start 0x3000 0x3600).Inv ∧ (after (step (start 0x3000 0x3600))).isSome = true := by
  unfold State.Inv
  decide
theorem witness_CanonicalMemories : Memory.wf [(0, 1), (65535, 0x8000)] := by decide
theorem witness_FetchSees_stores :
    (0x3001 : Word) ≠ 0xFE00 ∧ ∀ c ∈ [((0x3000 : Word), (7 : Word)), (0xFE00, 8)], c.1 ≠ 0x3001 := by
  simp
/-- What `look` sees is what a next state holds. -/
theorem look_next {α : Type} {s : State} {f : State → α} {x : α} (h : look s f = some x) :
    ∃ t, step s = .next t ∧ f t = x := by
  unfold look at h
  cases hs : step s <;> simp_all [after]
/-- A step that polls nothing and stores elsewhere meets the hypotheses of the clause on runs. -/
theorem one_step_leaves_cell {s : State} {a : Word} (hp : look s (·.polled) = some s.polled)
    (ha : storeAddress (decode s.fetch.1) s.fetch.2 ≠ some a) :
    (∀ j < 1, ∀ u, Sys2Proof.core.run j s = .next u → LeavesCell a u) ∧
      ∃ t, Sys2Proof.core.run 1 s = .next t := by
  obtain ⟨t, ht, hpt⟩ := look_next hp
  have hrun : Sys2Proof.core.run 1 s = .next t := by
    simp only [Host.Core.run, show Sys2Proof.core.step s = .next t from ht]
  refine ⟨fun j hj u hu => ?_, t, hrun⟩
  obtain rfl : j = 0 := by omega
  obtain rfl : s = u := Host.Outcome.next.inj hu
  refine ⟨ha, fun _ t' h => ?_⟩
  obtain rfl : t = t' := by simpa [ht] using h
  exact hpt
/-- `ST R3, #0` leaves the keyboard data register and the cell it stands in. -/
theorem witness_FetchSees_run : ∀ a ∈ [(0xFE02 : Word), 0x3000],
    (∀ j < 1, ∀ u, Sys2Proof.core.run j (start 0x3000 0x3600) = .next u → LeavesCell a u) ∧
      ∃ t, Sys2Proof.core.run 1 (start 0x3000 0x3600) = .next t := by
  have hst : storeAddress (decode (start 0x3000 0x3600).fetch.1) (start 0x3000 0x3600).fetch.2 =
      some 0x3001 := by decide
  have hpoll : look (start 0x3000 0x3600) (·.polled) = some (start 0x3000 0x3600).polled := by decide
  have hne : ∀ a ∈ [(0xFE02 : Word), 0x3000], some (0x3001 : Word) ≠ some a := by simp
  exact fun a ha => one_step_leaves_cell hpoll (hst ▸ hne a ha)
theorem witness_StepRuns_running : State.reset.status = .running := rfl
theorem witness_StepRuns_ended :
    ({ State.reset with status := .halted } : State).status ≠ .running ∧
      (State.reset.raiseFatal .reservedOpcode).status ≠ .running := by decide
theorem witness_PlacedWordRuns :
    State.reset.status = .running ∧ State.reset.pc ≠ 0xFE00 ∧ 65535 < 65536 := by decide
theorem witness_StepCompletesOrBlocks :
    ∃ s : State, s.status = .running ∧ step s = .fault .hostReadBlocks :=
  ⟨{ start 0x3000 0xF023 with silent := true }, rfl, rfl⟩
theorem witness_StepCompletesOrBlocks_ended :
    ({ State.reset with status := .halted } : State).status = .halted ∧
      (State.reset.raiseFatal .stringAtKbsr).status = .faulted .stringAtKbsr := by decide
theorem witness_OnlyHaltHalts :
    ∃ s t : State, step s = .next t ∧ t.status = .halted := ⟨start 0x3000 0xF025, _, rfl, rfl⟩
theorem witness_Fatal_rti : ∃ s t : State, step s = .next t ∧ t.status = .faulted .rtiUnsupported :=
  ⟨start 0x3000 0x8FFF, _, rfl, rfl⟩
theorem witness_Fatal_res : ∃ s t : State, step s = .next t ∧ t.status = .faulted .reservedOpcode :=
  ⟨start 0x3000 0xDFFF, _, rfl, rfl⟩
theorem witness_Fatal_trap_below :
    ∃ s t : State, step s = .next t ∧ t.status = .faulted .undefinedTrap :=
  ⟨start 0x3000 0xF01F, _, rfl, rfl⟩
theorem witness_Fatal_trap_above :
    ∃ s t : State, step s = .next t ∧ t.status = .faulted .undefinedTrap :=
  ⟨start 0x3000 0xF026, _, rfl, rfl⟩
theorem witness_Fatal_string :
    look ((start 0x3000 0xF024).setReg .r0 0xFE00) (·.status) =
      some (.faulted .stringAtKbsr) := by decide +kernel
theorem witness_PcChanged :
    ∃ t, exec (.jmp .r0) State.reset = .next t ∧ t.pc ≠ State.reset.pc := ⟨_, rfl, by decide⟩
theorem witness_FlagsWritten_set :
    ∃ t, exec (.lea .r3 1) State.reset = .next t ∧ flagRegister (.lea .r3 1) = some .r3 :=
  ⟨_, rfl, rfl⟩
theorem witness_FlagsWritten_kept :
    (∃ t, exec .out State.reset = .next t) ∧ flagRegister .out = none ∧
      ∀ nzp off, Instr.out ≠ .br nzp off := ⟨⟨_, rfl⟩, rfl, by simp⟩
theorem witness_RegistersWritten :
    ∃ t, exec (.jsr 1) State.reset = .next t ∧ .r6 ∉ writtenRegs (.jsr 1) ∧
      linksR7 (.jsr 1) = true := ⟨_, rfl, by decide, rfl⟩
theorem witness_OutputGrows_other :
    (∃ t, exec .halt State.reset = .next t) ∧ ¬ writesOutput .halt :=
  ⟨⟨_, rfl⟩, by simp [writesOutput]⟩
theorem witness_MemoryChanged_by_store :
    ∃ t, exec (.st .r0 0) (State.reset.setReg .r0 7) = .next t ∧
      t.cell 0x3000 ≠ (State.reset.setReg .r0 7).cell 0x3000 := ⟨_, rfl, by decide⟩
theorem witness_MemoryChanged_by_poll :
    ∃ s t : State, exec (.ldr .r0 .r1 0) s = .next t ∧ t.cell 0xFE02 ≠ s.cell 0xFE02 :=
  ⟨{ State.reset.setReg .r1 0xFE00 with polls := [true], chars := [0x61] }, _, rfl, by decide⟩
theorem witness_TrapRoutines_reading :
    isTrap .getc ∧ readsHost .getc ∧
      ∃ t, exec .getc { State.reset with chars := [0x61] } = .next t :=
  ⟨by simp [isTrap], by simp [readsHost], _, rfl⟩
theorem witness_TrapRoutines_other :
    isTrap .out ∧ ¬ readsHost .out ∧ ∃ t, exec .out State.reset = .next t :=
  ⟨by simp [isTrap], by simp [readsHost], _, rfl⟩
theorem witness_StoredKbsrIsUnobservable :
    SameButKbsrCell State.reset { State.reset with mem := [(0xFE00, 0x1234)] } := by
  refine ⟨rfl, fun a ha => ?_⟩
  have hne : ¬ 0xFE00 = a.toNat := fun e => ha (List.mem_singleton.2 (BitVec.eq_of_toNat_eq e.symm))
  simp [State.cell, Memory.read, hne, State.reset, State.resetWith]

/-- Each decoding clause has a word of its opcode, and opcode 0100 one for each value of bit 11. -/
theorem witness_opcode_words :
    (0x0FFF : Word).extractLsb 15 12 = 0b0000#4 ∧ (0x1FFF : Word).extractLsb 15 12 = 0b0001#4 ∧
    (0x2FFF : Word).extractLsb 15 12 = 0b0010#4 ∧ (0x3FFF : Word).extractLsb 15 12 = 0b0011#4 ∧
    (0x4FFF : Word).extractLsb 15 12 = 0b0100#4 ∧ (0x4FFF : Word).getLsbD 11 = true ∧
    (0x4000 : Word).extractLsb 15 12 = 0b0100#4 ∧ (0x4000 : Word).getLsbD 11 = false ∧
    (0x5FFF : Word).extractLsb 15 12 = 0b0101#4 ∧ (0x6FFF : Word).extractLsb 15 12 = 0b0110#4 ∧
    (0x7FFF : Word).extractLsb 15 12 = 0b0111#4 ∧ (0x8FFF : Word).extractLsb 15 12 = 0b1000#4 ∧
    (0x9FFF : Word).extractLsb 15 12 = 0b1001#4 ∧ (0xAFFF : Word).extractLsb 15 12 = 0b1010#4 ∧
    (0xBFFF : Word).extractLsb 15 12 = 0b1011#4 ∧ (0xCFFF : Word).extractLsb 15 12 = 0b1100#4 ∧
    (0xDFFF : Word).extractLsb 15 12 = 0b1101#4 ∧ (0xEFFF : Word).extractLsb 15 12 = 0b1110#4 ∧
    (0xFFFF : Word).extractLsb 15 12 = 0b1111#4 := by decide
theorem witness_NotThenAddOneNegates : (State.reset.setReg .r1 0x8000).reg .r1 = 0x8000 := by decide
theorem witness_LdLoadsPcRelative :
    State.reset.pc + (0xFF : BitVec 9).signExtend 16 ≠ 0xFE00 := by decide
theorem witness_LdiLoadsThroughThePointer :
    State.reset.pc + (1 : BitVec 9).signExtend 16 ≠ 0xFE00 ∧
      State.reset.cell (State.reset.pc + (1 : BitVec 9).signExtend 16) ≠ 0xFE00 := by decide
theorem witness_LdrLoadsBasePlusOffset :
    (State.reset.setReg .r1 0xFE01).reg .r1 + (0 : BitVec 6).signExtend 16 ≠ 0xFE00 := by decide
theorem witness_StiStoresThroughThePointer :
    State.reset.pc + (0x100 : BitVec 9).signExtend 16 ≠ 0xFE00 := by decide
theorem witness_TrapDispatches_undefined :
    ((0x1F : BitVec 8).toNat < 0x20 ∨ 0x25 < (0x1F : BitVec 8).toNat) ∧
      ((0x26 : BitVec 8).toNat < 0x20 ∨ 0x25 < (0x26 : BitVec 8).toNat) := by decide
theorem witness_Getc_and_In_read :
    State.nextByte { State.reset with chars := [0x61] } = some 0x61 := by decide
theorem witness_Getc_and_In_block :
    State.nextByte { State.reset with silent := true } = none := by decide
theorem witness_ImageLoading_words :
    (0xFFFF : Word).toNat + [(0x1234 : Word)].length ≤ 65536 := by decide
theorem witness_ImageLoading_images :
    loadImage [0x30, 0x00, 0xF0, 0x25] [] = some [(0x3000, 0xF025)] ∧
      (State.boot [[0x30, 0x00, 0xF0, 0x25]]).isSome = true := by decide

end Sys2Proof.Tests
end

section
/-! PROOFS. The statements of 00_scope.md: sign and zero extension (rule R11). -/

namespace Sys2Proof.Machine

/-! ### Sign and zero extension -/

/-- The negative case of rule R11: the bits above the field are set. -/
theorem sext_of_signBit_set {n : Nat} {f : BitVec n} (h : f.getLsbD (n - 1) = true) :
    sext f = f.setWidth 16 ||| (0xFFFF#16 <<< n) := if_pos h

/-- The other case of rule R11: the field is zero-extended. -/
theorem sext_of_signBit_clear {n : Nat} {f : BitVec n} (h : f.getLsbD (n - 1) = false) :
    sext f = f.setWidth 16 := if_neg (by simp [h])

/-- Rule R11 keeps the field's two's complement reading; the ranges it names follow from this. -/
theorem toInt_sext {n : Nat} (hn : n ∈ [5, 6, 9, 11]) (f : BitVec n) :
    (sext f).toInt = f.toInt := by
  have hle : n ≤ 16 := by simp at hn; omega
  rw [sext_eq_signExtend hn, BitVec.toInt_signExtend_of_le hle]

/-- `zext_16(b) = 0x00 ++ b`, as rule R11 writes it. -/
theorem zext16_eq_append (b : Byte) : zext16 b = 0x00#8 ++ b :=
  BitVec.setWidth_eq_append (by decide)

end Sys2Proof.Machine

namespace Sys2Proof.Proofs

open Sys2Proof.Machine

/-- Settles O7: the two cases of the rule are `sext`'s own, and its ranges are those of the field,
whose two's complement reading the extension keeps. -/
theorem signExtensionRule : Obligations.SignExtensionRule := by
  refine ⟨fun n hn f => ⟨sext_of_signBit_set, sext_of_signBit_clear, toInt_sext hn f, ?_⟩,
    zext16_eq_append⟩
  rw [toInt_sext hn f]
  exact ⟨BitVec.le_toInt f, BitVec.toInt_lt⟩

end Sys2Proof.Proofs
end

section
/-! PROOFS. The statements of 10_state.md: registers, flags, the output stream, the run status and the
step. `Effect` says once what an instruction can do to the state after its fetch; what each field of
the state is afterwards follows from it. -/

namespace Sys2Proof

open Laws.OpcodeBits (opcodeOf)

/-! ### The decoder keeps the opcode -/

theorem opcodeOf_decodeJmp (b : Reg) : opcodeOf (decodeJmp b) = 0xC#4 := by
  unfold decodeJmp
  split_ifs <;> rfl

theorem opcodeOf_decodeTrap (v : BitVec 8) : opcodeOf (decodeTrap v) = 0xF#4 := by
  unfold decodeTrap
  split_ifs <;> rfl

/-- A word decodes to an instruction of its own opcode (rule R55). -/
theorem opcodeOf_decode (w : Word) : opcodeOf (decode w) = Field.opcode w := by
  unfold decode
  split
  case h_2 h | h_5 h | h_6 h => split_ifs <;> exact h.symm
  case h_13 h => rw [opcodeOf_decodeJmp, h]
  case h_16 =>
    rw [opcodeOf_decodeTrap]
    generalize Field.opcode w = k at *
    revert k
    decide
  all_goals exact Eq.symm ‹_›

theorem decode_of_trap_opcode {w : Word} (h : Field.opcode w = 0xF#4) :
    decode w = decodeTrap (Field.vect8 w) := by
  unfold decode
  rw [h]
  rfl

theorem decodeTrap_eq_halt {v : BitVec 8} : decodeTrap v = .halt ↔ v = 0x25#8 := by
  unfold decodeTrap
  split_ifs <;> simp_all

theorem decode_eq_halt {w : Word} :
    decode w = .halt ↔ Field.opcode w = 0xF#4 ∧ Field.vect8 w = 0x25#8 := by
  constructor
  · intro h
    have hop : Field.opcode w = 0xF#4 := by rw [← opcodeOf_decode, h]; rfl
    exact ⟨hop, decodeTrap_eq_halt.1 (decode_of_trap_opcode hop ▸ h)⟩
  · rintro ⟨hop, hv⟩
    rw [decode_of_trap_opcode hop, decodeTrap_eq_halt.2 hv]

theorem trapIsNotRoutine_of_decodeTrap {u v : BitVec 8} (h : decodeTrap u = .trap v) :
    trapIsNotRoutine v = true := by
  unfold decodeTrap at h
  split_ifs at h
  cases h
  simp only [trapIsNotRoutine, Bool.not_eq_true', Bool.and_eq_false_iff, decide_eq_false_iff_not]
  bv_omega

/-- The decoder writes a routine's TRAP word with the routine's own name (rule R62). -/
theorem trapIsNotRoutine_of_decode {w : Word} {v : BitVec 8} (h : decode w = .trap v) :
    trapIsNotRoutine v = true := by
  have hop : Field.opcode w = 0xF#4 := by rw [← opcodeOf_decode, h]; rfl
  exact trapIsNotRoutine_of_decodeTrap (decode_of_trap_opcode hop ▸ h)

/-! ### A word as the host's table writes it -/

theorem word_of_low16 (w : Nat) : BitVec.ofNat 16 (w % 2 ^ 16) = BitVec.ofNat 16 w :=
  BitVec.eq_of_toNat_eq (by simp)

theorem decodeTableWord_word (w : Nat) :
    decodeTableWord 16 w = some (decode (BitVec.ofNat 16 w)) := by
  rw [decodeTableWord, decodeBits, if_neg (by decide), if_neg (by decide), word_of_low16]

end Sys2Proof

namespace Sys2Proof.Machine

theorem State.withFetchWord_word (s : State) (w : Nat) :
    s.withFetchWord 16 w = s.setCell s.pc (BitVec.ofNat 16 w) := by
  rw [State.withFetchWord, word_of_low16]

theorem State.fetch_setCell_pc {s : State} (h : s.pc ≠ Config.kbsr) (v : Word) :
    (s.setCell s.pc v).fetch = (v, (s.setCell s.pc v).setPc (s.pc + 1)) := by
  have hpc : (s.setCell s.pc v).pc ≠ Config.kbsr := h
  rw [State.fetch_plain hpc, State.setCell_pc, State.cell_setCell_same]

/-! ### The flag of a value is its sign -/

theorem Cond.ofWord_eq_zro {v : Word} : Cond.ofWord v = .zro ↔ v.toInt = 0 := by
  rw [← BitVec.toInt_zero (w := 16), BitVec.toInt_inj]
  unfold Cond.ofWord
  split_ifs <;> simp_all

theorem Cond.ofWord_eq_neg {v : Word} : Cond.ofWord v = .neg ↔ v.toInt < 0 := by
  have hsign : v.getLsbD 15 = decide (v.toInt < 0) :=
    (BitVec.msb_eq_getLsbD_last v).symm.trans BitVec.msb_eq_toInt
  unfold Cond.ofWord
  rw [hsign]
  split_ifs with h0 h15
  · simp [h0]
  · simpa using h15
  · simpa using h15

/-- POS is what is left, as a positive value is neither zero nor negative. -/
theorem Cond.ofWord_eq_pos {v : Word} : Cond.ofWord v = .pos ↔ 0 < v.toInt := by
  have hz := Cond.ofWord_eq_zro (v := v)
  have hn := Cond.ofWord_eq_neg (v := v)
  cases h : Cond.ofWord v <;> simp [h] at hz hn ⊢ <;> omega

/-! ### What shared operations keep -/

theorem State.reg_congr {s t : State} (h : t.regs = s.regs) (r : Reg) : t.reg r = s.reg r :=
  congrArg (·.get r) h

theorem State.storeChar_eq (s : State) (c : Byte) :
    s.storeChar c = s.writeResult .r0 (zext16 c) := rfl

theorem State.writeString_keeps (s : State) (r : List Byte × Bool) :
    (s.writeString r).regs = s.regs ∧ (s.writeString r).pc = s.pc ∧
      (s.writeString r).cond = s.cond ∧ (s.writeString r).out = s.out ++ r.1 := by
  obtain ⟨-, h⟩ | ⟨-, h⟩ := s.writeString_cases r <;> rw [h] <;> simp

theorem State.writeString_status (s : State) (r : List Byte × Bool) :
    (s.writeString r).status = s.status ∨ ∃ f, (s.writeString r).status = .faulted f := by
  obtain ⟨-, h⟩ | ⟨-, h⟩ := s.writeString_cases r <;> rw [h]
  · exact .inr ⟨_, rfl⟩
  · exact .inl rfl

/-- The second state is left by some reads through the memory unit, none included. -/
def ReadsTo : State → State → Prop :=
  Relation.ReflTransGen (fun s u => ∃ a, u = (s.memRead a).2)

theorem ReadsTo.refl {s : State} : ReadsTo s s := Relation.ReflTransGen.refl

theorem ReadsTo.memRead {s u : State} (h : ReadsTo s u) (a : Word) : ReadsTo s (u.memRead a).2 :=
  Relation.ReflTransGen.tail h ⟨a, rfl⟩

theorem ReadsTo.keeps {s u : State} (h : ReadsTo s u) :
    u.regs = s.regs ∧ u.pc = s.pc ∧ u.cond = s.cond ∧ u.status = s.status ∧ u.out = s.out := by
  induction h with
  | refl => simp
  | tail _ hread ih =>
    obtain ⟨a, rfl⟩ := hread
    obtain ⟨hregs, hpc, hcond, hstatus, hout, -⟩ := State.memRead_keeps _ a
    rwa [hregs, hpc, hcond, hstatus, hout]

/-! ### What an instruction can do -/

/-- Everything an instruction can do to the state after its fetch, where its step completes. -/
inductive Effect : Instr → State → State → Prop
  /-- ADD, AND, NOT, the loads and LEA. -/
  | result {i s u dr} (v : Word) (hdr : flagRegister i = some dr) (hlink : linksR7 i = false)
      (hu : ReadsTo s u) : Effect i s (u.writeResult dr v)
  /-- ST, STI and STR. -/
  | store {i s u a} (v : Word) (ha : storeAddress i s = some a) (hdr : flagRegister i = none)
      (hlink : linksR7 i = false) (hu : ReadsTo s u) : Effect i s (u.setCell a v)
  | branchNotTaken {nzp off s} (hn : brTaken nzp s.cond = false) : Effect (.br nzp off) s s
  | branch {nzp off s} (ht : brTaken nzp s.cond = true) :
      Effect (.br nzp off) s (s.setPc (s.pcOffset9 off))
  | jump {i s} (a : Word) (hi : (∃ b, i = .jmp b) ∨ i = .ret) : Effect i s (s.setPc a)
  | call {i s} (a : Word) (hi : (∃ off, i = .jsr off) ∨ ∃ b, i = .jsrr b) :
      Effect i s ((s.setReg .r7 s.pc).setPc a)
  | getc {i s c} (hi : i = .getc ∨ i = .trap 0x20) (hc : s.nextByte = some c) :
      Effect i s (s.enterTrap.dropByte.storeChar c)
  | inp {i s c} (hi : i = .inp ∨ i = .trap 0x23) (hc : s.nextByte = some c) :
      Effect i s ((((s.enterTrap.output inPrompt).dropByte).output [c]).storeChar c)
  | out {i s} (hi : i = .out ∨ i = .trap 0x21) :
      Effect i s (s.enterTrap.output [(s.enterTrap.reg .r0).setWidth 8])
  | puts {i s} (hi : i = .puts ∨ i = .trap 0x22) :
      Effect i s (s.enterTrap.writeString (scanFrom putsBytes s.mem (s.reg .r0)))
  | putsp {i s} (hi : i = .putsp ∨ i = .trap 0x24) :
      Effect i s (s.enterTrap.writeString (scanFrom putspBytes s.mem (s.reg .r0)))
  | halt {i s} (hi : i = .halt ∨ i = .trap 0x25) :
      Effect i s { s.enterTrap.output haltMessage with status := .halted }
  | undefinedTrap {v s} (hv : v.toNat < 0x20 ∨ 0x25 < v.toNat) :
      Effect (.trap v) s (s.enterTrap.raiseFatal .undefinedTrap)
  | rti {s} : Effect .rti s (s.raiseFatal .rtiUnsupported)
  | res {s} : Effect .res s (s.raiseFatal .reservedOpcode)

/-- The outcomes of an instruction: an effect, or the wait for a byte the host never supplies. -/
inductive Answers (i : Instr) (s : State) : Host.Outcome State Fault Refusal → Prop
  | next {t} (h : Effect i s t) : Answers i s (.next t)
  | blocks (hi : readsHost i) (hb : s.nextByte = none) : Answers i s (.fault .hostReadBlocks)

theorem answers_execBr (nzp : BitVec 3) (off : BitVec 9) (s : State) :
    Answers (.br nzp off) s (execBr nzp off s) := by
  unfold execBr
  cases h : brTaken nzp s.cond with
  | true => exact .next (.branch h)
  | false => exact .next (.branchNotTaken h)

theorem answers_execGetc {i : Instr} (hi : i = .getc ∨ i = .trap 0x20) (s : State) :
    Answers i s (execGetc s) := by
  cases hc : s.nextByte with
  | some c => exact execGetc_next hc ▸ .next (.getc hi hc)
  | none =>
    have hreads : readsHost i := by rcases hi with rfl | rfl <;> simp [readsHost]
    exact execGetc_blocks hc ▸ .blocks hreads hc

theorem answers_execIn {i : Instr} (hi : i = .inp ∨ i = .trap 0x23) (s : State) :
    Answers i s (execIn s) := by
  cases hc : s.nextByte with
  | some c => exact execIn_next hc ▸ .next (.inp hi hc)
  | none =>
    have hreads : readsHost i := by rcases hi with rfl | rfl <;> simp [readsHost]
    exact execIn_blocks hc ▸ .blocks hreads hc

theorem answers_execTrap (v : BitVec 8) (s : State) : Answers (.trap v) s (execTrap v s) := by
  obtain ⟨rfl, h⟩ | ⟨rfl, h⟩ | ⟨rfl, h⟩ | ⟨rfl, h⟩ | ⟨rfl, h⟩ | ⟨rfl, h⟩ | ⟨hv, h⟩ :=
    execTrap_cases v s <;> rw [h]
  · exact answers_execGetc (.inr rfl) s
  · exact .next (.out (.inr rfl))
  · exact .next (.puts (.inr rfl))
  · exact answers_execIn (.inr rfl) s
  · exact .next (.putsp (.inr rfl))
  · exact .next (.halt (.inr rfl))
  · exact .next (.undefinedTrap hv)

theorem answers_exec (i : Instr) (s : State) : Answers i s (exec i s) :=
  match i with
  | .addReg .. => .next (.result _ rfl rfl .refl)
  | .addImm .. => .next (.result _ rfl rfl .refl)
  | .andReg .. => .next (.result _ rfl rfl .refl)
  | .andImm .. => .next (.result _ rfl rfl .refl)
  | .not .. => .next (.result _ rfl rfl .refl)
  | .lea .. => .next (.result _ rfl rfl .refl)
  | .ld .. => .next (.result _ rfl rfl (.memRead .refl _))
  | .ldr .. => .next (.result _ rfl rfl (.memRead .refl _))
  | .ldi .. => .next (.result _ rfl rfl (.memRead (.memRead .refl _) _))
  | .st .. => .next (.store _ rfl rfl rfl .refl)
  | .sti .. => .next (.store _ rfl rfl rfl (.memRead .refl _))
  | .str .. => .next (.store _ rfl rfl rfl .refl)
  | .br nzp off => answers_execBr nzp off s
  | .jmp b => .next (.jump _ (.inl ⟨b, rfl⟩))
  | .ret => .next (.jump _ (.inr rfl))
  | .jsr off => .next (.call _ (.inl ⟨off, rfl⟩))
  | .jsrr b => .next (.call _ (.inr ⟨b, rfl⟩))
  | .trap v => answers_execTrap v s
  | .getc => answers_execGetc (.inl rfl) s
  | .out => .next (.out (.inl rfl))
  | .puts => .next (.puts (.inl rfl))
  | .inp => answers_execIn (.inl rfl) s
  | .putsp => .next (.putsp (.inl rfl))
  | .halt => .next (.halt (.inl rfl))
  | .rti => .next .rti
  | .res => .next .res

/-- An instruction completes with an effect, or it is GETC or IN and the host has no further byte. -/
theorem exec_cases (i : Instr) (s : State) :
    (∃ t, exec i s = .next t ∧ Effect i s t) ∨
      (exec i s = .fault .hostReadBlocks ∧ readsHost i ∧ s.nextByte = none) := by
  have h := answers_exec i s
  generalize exec i s = o at h
  cases h with
  | next he => exact .inl ⟨_, rfl, he⟩
  | blocks hi hb => exact .inr ⟨rfl, hi, hb⟩

theorem effect_of_exec {i : Instr} {s t : State} (h : exec i s = .next t) : Effect i s t := by
  obtain ⟨u, hu, he⟩ | ⟨hblocks, -⟩ := exec_cases i s
  · cases hu.symm.trans h
    exact he
  · cases hblocks.symm.trans h

/-! ### What an effect leaves in each field -/

section fields
variable {i : Instr} {s t : State}

theorem Effect.status (h : Effect i s t) :
    t.status = s.status ∨ (∃ f, t.status = .faulted f) ∨
      (t.status = .halted ∧ (i = .halt ∨ i = .trap 0x25)) := by
  cases h with
  | result _ _ _ hu | store _ _ _ _ hu =>
    obtain ⟨-, -, -, hstatus, -⟩ := hu.keeps
    exact .inl hstatus
  | branchNotTaken | branch | jump | call | getc | inp | out => exact .inl rfl
  | puts | putsp => exact (State.writeString_status _ _).imp_right .inl
  | halt hi => exact .inr (.inr ⟨rfl, hi⟩)
  | undefinedTrap | rti | res => exact .inr (.inl ⟨_, rfl⟩)

theorem Effect.pc (h : Effect i s t) :
    t.pc = s.pc ∨ (∃ nzp off, i = .br nzp off ∧ brTaken nzp s.cond = true) ∨ (∃ b, i = .jmp b) ∨
      i = .ret ∨ (∃ off, i = .jsr off) ∨ ∃ b, i = .jsrr b := by
  cases h with
  | result _ _ _ hu | store _ _ _ _ hu =>
    obtain ⟨-, hpc, -⟩ := hu.keeps
    exact .inl hpc
  | branch ht => exact .inr (.inl ⟨_, _, rfl, ht⟩)
  | jump _ hi => exact .inr (.inr (hi.imp_right .inl))
  | call _ hi => exact .inr (.inr (.inr (.inr hi)))
  | puts | putsp =>
    obtain ⟨-, hpc, -⟩ := State.writeString_keeps _ _
    exact .inl hpc
  | branchNotTaken | getc | inp | out | halt | undefinedTrap | rti | res => exact .inl rfl

theorem flagRegister_undefinedTrap {v : BitVec 8} (hv : v.toNat < 0x20 ∨ 0x25 < v.toNat) :
    flagRegister (.trap v) = none :=
  if_neg (by rintro (rfl | rfl) <;> revert hv <;> decide)

theorem Effect.cond (h : Effect i s t) :
    (flagRegister i = none ∧ t.cond = s.cond) ∨
      ∃ r, flagRegister i = some r ∧ t.cond = Cond.ofWord (t.reg r) := by
  cases h with
  | result v hdr => exact .inr ⟨_, hdr, by simp⟩
  | store _ _ hdr _ hu =>
    obtain ⟨-, -, hcond, -⟩ := hu.keeps
    exact .inl ⟨hdr, hcond⟩
  | getc hi | inp hi =>
    refine .inr ⟨.r0, ?_, by simp [State.storeChar_eq]⟩
    rcases hi with rfl | rfl <;> rfl
  | branchNotTaken | branch | rti | res => exact .inl ⟨rfl, rfl⟩
  | jump _ hi => exact .inl ⟨by rcases hi with ⟨_, rfl⟩ | rfl <;> rfl, rfl⟩
  | call _ hi => exact .inl ⟨by rcases hi with ⟨_, rfl⟩ | ⟨_, rfl⟩ <;> rfl, rfl⟩
  | out hi | halt hi => exact .inl ⟨by rcases hi with rfl | rfl <;> rfl, rfl⟩
  | puts hi | putsp hi =>
    obtain ⟨-, -, hcond, -⟩ := State.writeString_keeps _ _
    exact .inl ⟨by rcases hi with rfl | rfl <;> rfl, hcond⟩
  | undefinedTrap hv => exact .inl ⟨flagRegister_undefinedTrap hv, rfl⟩

theorem notMem_writtenRegs {r : Reg} :
    r ∉ writtenRegs i ↔ flagRegister i ≠ some r ∧ (linksR7 i = true → r ≠ .r7) := by
  unfold writtenRegs
  cases linksR7 i <;> simp

theorem Effect.reg (h : Effect i s t) {r : Reg} (hr : r ∉ writtenRegs i) : t.reg r = s.reg r := by
  obtain ⟨hflag, hlink⟩ := notMem_writtenRegs.1 hr
  cases h with
  | @result _ _ _ dr v hdr _ hu =>
    obtain ⟨hregs, -⟩ := hu.keeps
    have hne : r ≠ dr := by rintro rfl; exact hflag hdr
    rw [State.reg_writeResult_other hne, State.reg_congr hregs]
  | store _ _ _ _ hu =>
    obtain ⟨hregs, -⟩ := hu.keeps
    exact State.reg_congr hregs r
  | branchNotTaken | branch | jump | rti | res => rfl
  | call _ hi =>
    have h7 : r ≠ .r7 := hlink (by rcases hi with ⟨_, rfl⟩ | ⟨_, rfl⟩ <;> rfl)
    exact State.reg_setReg_other h7 s s.pc
  | getc hi | inp hi =>
    have h0 : r ≠ .r0 := by rintro rfl; exact hflag (by rcases hi with rfl | rfl <;> rfl)
    have h7 : r ≠ .r7 := hlink (by rcases hi with rfl | rfl <;> rfl)
    rw [State.storeChar_eq, State.reg_writeResult_other h0]
    exact State.reg_enterTrap_other h7 s
  | out hi | halt hi =>
    exact State.reg_enterTrap_other (hlink (by rcases hi with rfl | rfl <;> rfl)) s
  | puts hi | putsp hi =>
    obtain ⟨hregs, -⟩ := State.writeString_keeps _ _
    rw [State.reg_congr hregs]
    exact State.reg_enterTrap_other (hlink (by rcases hi with rfl | rfl <;> rfl)) s
  | undefinedTrap => exact State.reg_enterTrap_other (hlink rfl) s

theorem Effect.link (h : Effect i s t) (hlink : linksR7 i = true) : t.reg .r7 = s.pc := by
  cases h with
  | result _ _ hl | store _ _ _ hl => exact absurd (hl.symm.trans hlink) (by decide)
  | branchNotTaken | branch | rti | res => cases hlink
  | jump _ hi => rcases hi with ⟨b, rfl⟩ | rfl <;> cases hlink
  | call => exact State.reg_setReg_same s .r7 s.pc
  | getc | inp =>
    rw [State.storeChar_eq, State.reg_writeResult_other (by decide)]
    exact State.reg_enterTrap_r7 s
  | out | halt | undefinedTrap => exact State.reg_enterTrap_r7 s
  | puts | putsp =>
    obtain ⟨hregs, -⟩ := State.writeString_keeps _ _
    rw [State.reg_congr hregs]
    exact State.reg_enterTrap_r7 s

/-- HALT's message is empty (decision D12), so it counts among those that append nothing. -/
theorem Effect.out_append (h : Effect i s t) :
    ∃ bs, t.out = s.out ++ bs ∧ (writesOutput i ∨ bs = []) := by
  cases h with
  | result _ _ _ hu | store _ _ _ _ hu =>
    obtain ⟨-, -, -, -, hout⟩ := hu.keeps
    exact ⟨[], by simp [hout], .inr rfl⟩
  | @inp _ _ c hi =>
    refine ⟨inPrompt ++ [c], List.append_assoc .., .inl ?_⟩
    rcases hi with rfl | rfl <;> simp [writesOutput]
  | out hi =>
    refine ⟨_, rfl, .inl ?_⟩
    rcases hi with rfl | rfl <;> simp [writesOutput]
  | puts hi | putsp hi =>
    obtain ⟨-, -, -, hout⟩ := State.writeString_keeps _ _
    refine ⟨_, hout, .inl ?_⟩
    rcases hi with rfl | rfl <;> simp [writesOutput]
  | halt => exact ⟨haltMessage, rfl, .inr rfl⟩
  | branchNotTaken | branch | jump | call | getc | undefinedTrap | rti | res =>
    exact ⟨[], (List.append_nil _).symm, .inr rfl⟩

end fields

/-! ### No instruction reads the output, and BR alone reads COND -/

/-- The state with another COND, and with bytes before those of its own output. -/
def State.withCondAndPast (s : State) (c : Cond) (bs : List Byte) : State :=
  { s with cond := c, out := bs ++ s.out }

/-- What `i` makes of a state with COND `c` and with `bs` before its output, where it makes `t` of the
state without them. -/
def State.carryCondAndPast (i : Instr) (c : Cond) (bs : List Byte) (t : State) : State :=
  t.withCondAndPast (if flagRegister i = none then c else t.cond) bs

section withCondAndPast
variable (s : State) (c : Cond) (bs : List Byte)

theorem State.memRead_withCondAndPast (a : Word) :
    (s.withCondAndPast c bs).memRead a =
      ((s.memRead a).1, (s.memRead a).2.withCondAndPast c bs) := by
  have hpending : (s.withCondAndPast c bs).pendingByte = s.pendingByte := rfl
  obtain ⟨ha, h⟩ | ⟨b, rfl, hb, h⟩ | ⟨rfl, hb, h⟩ := s.memRead_cases a <;> rw [h]
  · exact State.memRead_plain ha _
  · rw [State.memRead_kbsr, pollKeyboard, hpending, hb]
    rfl
  · rw [State.memRead_kbsr, pollKeyboard, hpending, hb]
    rfl

theorem State.pointer_withCondAndPast (off : BitVec 9) :
    (s.withCondAndPast c bs).pointer off =
      ((s.pointer off).1, (s.pointer off).2.withCondAndPast c bs) :=
  State.memRead_withCondAndPast s c bs _

theorem State.loadInto_withCondAndPast (dr : Reg) (ea : Word) :
    (s.withCondAndPast c bs).loadInto dr ea =
      (s.loadInto dr ea).withCondAndPast (s.loadInto dr ea).cond bs := by
  unfold State.loadInto
  rw [State.memRead_withCondAndPast]
  rfl

theorem State.output_withCondAndPast (o : List Byte) :
    (s.withCondAndPast c bs).output o = (s.output o).withCondAndPast c bs := by
  simp [State.withCondAndPast, State.output]

theorem State.writeString_withCondAndPast (r : List Byte × Bool) :
    (s.withCondAndPast c bs).writeString r = (s.writeString r).withCondAndPast c bs := by
  unfold State.writeString
  rw [State.output_withCondAndPast]
  split <;> rfl

theorem execLdi_withCondAndPast (dr : Reg) (off : BitVec 9) :
    execLdi dr off (s.withCondAndPast c bs) =
      mapNext (fun t => t.withCondAndPast t.cond bs) (execLdi dr off s) := by
  rw [execLdi, State.pointer_withCondAndPast, State.loadInto_withCondAndPast]
  rfl

theorem execSti_withCondAndPast (sr : Reg) (off : BitVec 9) :
    execSti sr off (s.withCondAndPast c bs) =
      mapNext (·.withCondAndPast c bs) (execSti sr off s) := by
  rw [execSti, State.pointer_withCondAndPast]
  rfl

theorem execGetc_withCondAndPast :
    execGetc (s.withCondAndPast c bs) =
      mapNext (fun t => t.withCondAndPast t.cond bs) (execGetc s) := by
  have hnext : (s.withCondAndPast c bs).nextByte = s.nextByte := rfl
  cases hb : s.nextByte with
  | some b =>
    rw [execGetc_next hb, execGetc_next (hnext.trans hb)]
    rfl
  | none =>
    rw [execGetc_blocks hb, execGetc_blocks (hnext.trans hb)]
    rfl

theorem execIn_withCondAndPast :
    execIn (s.withCondAndPast c bs) =
      mapNext (fun t => t.withCondAndPast t.cond bs) (execIn s) := by
  have hnext : (s.withCondAndPast c bs).nextByte = s.nextByte := rfl
  have henter : (s.withCondAndPast c bs).enterTrap = s.enterTrap.withCondAndPast c bs := rfl
  have hdrop (u : State) :
      (u.withCondAndPast c bs).dropByte = u.dropByte.withCondAndPast c bs := rfl
  cases hb : s.nextByte with
  | some b =>
    rw [execIn_next hb, execIn_next (hnext.trans hb), henter, State.output_withCondAndPast, hdrop,
      State.output_withCondAndPast]
    rfl
  | none =>
    rw [execIn_blocks hb, execIn_blocks (hnext.trans hb)]
    rfl

theorem execOut_withCondAndPast :
    execOut (s.withCondAndPast c bs) = mapNext (·.withCondAndPast c bs) (execOut s) :=
  congrArg Host.Outcome.next (State.output_withCondAndPast s.enterTrap c bs _)

theorem execPuts_withCondAndPast :
    execPuts (s.withCondAndPast c bs) = mapNext (·.withCondAndPast c bs) (execPuts s) :=
  congrArg Host.Outcome.next (State.writeString_withCondAndPast s.enterTrap c bs _)

theorem execPutsp_withCondAndPast :
    execPutsp (s.withCondAndPast c bs) = mapNext (·.withCondAndPast c bs) (execPutsp s) :=
  congrArg Host.Outcome.next (State.writeString_withCondAndPast s.enterTrap c bs _)

theorem execHalt_withCondAndPast :
    execHalt (s.withCondAndPast c bs) = mapNext (·.withCondAndPast c bs) (execHalt s) := by
  have henter : (s.withCondAndPast c bs).enterTrap = s.enterTrap.withCondAndPast c bs := rfl
  rw [execHalt, routineHalt, henter, State.output_withCondAndPast]
  rfl

theorem execTrap_withCondAndPast (v : BitVec 8) :
    execTrap v (s.withCondAndPast c bs) =
      mapNext (State.carryCondAndPast (.trap v) c bs) (execTrap v s) := by
  obtain ⟨rfl, -⟩ | ⟨rfl, -⟩ | ⟨rfl, -⟩ | ⟨rfl, -⟩ | ⟨rfl, -⟩ | ⟨rfl, -⟩ | ⟨hv, -⟩ :=
    execTrap_cases v s
  · exact execGetc_withCondAndPast s c bs
  · exact execOut_withCondAndPast s c bs
  · exact execPuts_withCondAndPast s c bs
  · exact execIn_withCondAndPast s c bs
  · exact execPutsp_withCondAndPast s c bs
  · exact execHalt_withCondAndPast s c bs
  · rw [execTrap_undefined hv, execTrap_undefined hv, mapNext, State.carryCondAndPast,
      if_pos (flagRegister_undefinedTrap hv)]
    rfl

/-- Any instruction but BR does the same whatever COND and the earlier output are. -/
theorem exec_withCondAndPast {i : Instr} (hi : ∀ nzp off, i ≠ .br nzp off) :
    exec i (s.withCondAndPast c bs) = mapNext (State.carryCondAndPast i c bs) (exec i s) := by
  cases i with
  | br nzp off => exact absurd rfl (hi nzp off)
  | addReg | addImm | andReg | andImm | not | lea => rfl
  | jmp | ret | jsr | jsrr | st | str | rti | res => rfl
  | ld | ldr => exact congrArg Host.Outcome.next (State.loadInto_withCondAndPast s c bs _ _)
  | ldi => exact execLdi_withCondAndPast s c bs _ _
  | sti => exact execSti_withCondAndPast s c bs _ _
  | trap v => exact execTrap_withCondAndPast s c bs v
  | getc => exact execGetc_withCondAndPast s c bs
  | out => exact execOut_withCondAndPast s c bs
  | puts => exact execPuts_withCondAndPast s c bs
  | inp => exact execIn_withCondAndPast s c bs
  | putsp => exact execPutsp_withCondAndPast s c bs
  | halt => exact execHalt_withCondAndPast s c bs

end withCondAndPast

theorem Effect.carryOwnCond {i : Instr} {s t : State} (h : Effect i s t) (bs : List Byte) :
    t.carryCondAndPast i s.cond bs = t.withCondAndPast t.cond bs := by
  unfold State.carryCondAndPast
  obtain ⟨hnone, hcond⟩ | ⟨r, hsome, -⟩ := h.cond
  · rw [if_pos hnone, hcond]
  · rw [if_neg (by simp [hsome])]

theorem execBr_withPastOutput (nzp : BitVec 3) (off : BitVec 9) (s : State) (bs : List Byte) :
    execBr nzp off { s with out := bs ++ s.out } =
      mapNext (fun t => { t with out := bs ++ t.out }) (execBr nzp off s) := by
  unfold execBr
  split <;> rfl

/-- BR reads COND but not the output; every other instruction reads neither. -/
theorem exec_withPastOutput (i : Instr) (s : State) (bs : List Byte) :
    exec i { s with out := bs ++ s.out } =
      mapNext (fun t => { t with out := bs ++ t.out }) (exec i s) := by
  by_cases hbr : ∃ nzp off, i = .br nzp off
  · obtain ⟨nzp, off, rfl⟩ := hbr
    exact execBr_withPastOutput nzp off s bs
  · have h := exec_withCondAndPast s s.cond bs (fun nzp off e => hbr ⟨nzp, off, e⟩)
    refine Eq.trans h ?_
    obtain ⟨t, ht, he⟩ | ⟨hblocks, -⟩ := exec_cases i s
    · rw [ht, mapNext, he.carryOwnCond]
      rfl
    · rw [hblocks]
      rfl

end Sys2Proof.Machine

namespace Sys2Proof.Proofs

open Sys2Proof.Machine

/-- Settles O23: an effect leaves HALTED only where it is HALT's, and the decoder makes HALT of
exactly the TRAP words with selector 0x25. -/
theorem onlyHaltHalts : Obligations.OnlyHaltHalts := by
  refine ⟨rfl, fun s t h => ?_⟩
  obtain ⟨hrun, hexec⟩ := step_next h
  obtain ⟨-, -, -, hstatus, -, -⟩ := s.fetch_keeps
  refine ⟨hrun, fun ht => ?_, fun hw => ?_⟩
  · obtain hsame | ⟨f, hf⟩ | ⟨-, hhalt | htrap⟩ := (effect_of_exec hexec).status
    · simp [hsame, hstatus, hrun] at ht
    · simp [hf] at ht
    · exact decode_eq_halt.1 hhalt
    · exact absurd (trapIsNotRoutine_of_decode htrap) (by decide)
  · rw [decode_eq_halt.2 hw] at hexec
    cases hexec
    rfl

/-- Settles O8: the flag's definition, and the sign that bit 15 is. -/
theorem flagRule : Obligations.FlagRule :=
  fun _ _ => ⟨rfl, Cond.ofWord_eq_zro, Cond.ofWord_eq_neg, Cond.ofWord_eq_pos⟩

/-- Settles O21: the fetch reads the cell the word was placed in. -/
theorem placedWordRuns : Obligations.PlacedWordRuns := by
  intro s w hrun hpc _
  refine ⟨_, decodeTableWord_word w, ?_⟩
  have hrun' : (s.setCell s.pc (BitVec.ofNat 16 w)).status = .running := hrun
  rw [State.withFetchWord_word, step_running hrun', State.fetch_setCell_pc hpc]

/-- Settles O22: `exec` completes or blocks, and a blocked word, being decoded, is GETC or IN by
name. -/
theorem stepCompletesOrBlocks : Obligations.StepCompletesOrBlocks := by
  refine ⟨fun s hrun => ?_, fun s hhalted => ?_, fun s r hfaulted => ?_⟩
  · rw [step_running hrun]
    obtain ⟨t, ht, -⟩ | ⟨hblocks, hreads, hnone⟩ := exec_cases (decode s.fetch.1) s.fetch.2
    · exact .inl ⟨t, ht⟩
    · obtain ⟨hchars, hsilent⟩ := State.nextByte_eq_none.1 hnone
      obtain ⟨-, -, -, -, -, hkeeps⟩ := s.fetch_keeps
      refine .inr ⟨hblocks, hchars, hkeeps ▸ hsilent, ?_⟩
      obtain hgetc | hin | htrap | htrap := hreads
      · exact .inl hgetc
      · exact .inr hin
      · exact absurd (trapIsNotRoutine_of_decode htrap) (by decide)
      · exact absurd (trapIsNotRoutine_of_decode htrap) (by decide)
  · rw [step, hhalted]
  · rw [step, hfaulted]

/-- Settles O26, by the PC that each effect leaves. -/
theorem pcChangedOnlyByControlTransfer : Obligations.PcChangedOnlyByControlTransfer := by
  intro i s t h hpc
  obtain hsame | ⟨nzp, off, hi, htaken⟩ | hrest := (effect_of_exec h).pc
  · exact absurd hsame hpc
  · exact .inl ⟨nzp, off, hi, by simpa [brTaken] using htaken⟩
  · exact .inr hrest

/-- Settles O27: the flag that each effect leaves, and the run under another COND with no output
before it. -/
theorem flagsWrittenAndReadExactlyBy : Obligations.FlagsWrittenAndReadExactlyBy := by
  refine ⟨fun i s t h => ?_, fun i s c hi => exec_withCondAndPast s c [] hi⟩
  obtain ⟨hnone, hcond⟩ | ⟨r, hsome, hcond⟩ := (effect_of_exec h).cond
  · rw [hnone]
    exact hcond
  · rw [hsome]
    exact hcond

/-- Settles O28, by the registers that each effect leaves. -/
theorem registersWrittenExactlyBy : Obligations.RegistersWrittenExactlyBy :=
  ⟨fun _ _ _ h => ⟨fun _ => (effect_of_exec h).reg, (effect_of_exec h).link⟩, fun _ => rfl⟩

/-- Settles O29: each effect appends to the output, and none depends on it. -/
theorem outputGrowsOnlyByTraps : Obligations.OutputGrowsOnlyByTraps := by
  refine ⟨rfl, fun i s t h => ?_, fun i s t h hquiet => ?_, exec_withPastOutput⟩
  · obtain ⟨bs, hout, -⟩ := (effect_of_exec h).out_append
    exact ⟨bs, hout.symm⟩
  · obtain ⟨bs, hout, hbs⟩ := (effect_of_exec h).out_append
    rw [hout, hbs.resolve_left hquiet, haltMessage, ite_self]

/-- Settles O9, by the two laws of a register read after a write. -/
theorem registersAreIndependent : Obligations.RegistersAreIndependent :=
  fun s i v => ⟨State.reg_setReg_same s i v, fun _ h => State.reg_setReg_other h s v⟩

/-- Settles O14, by the laws of the host's answers. -/
theorem hostAnswersAsListed : Obligations.HostAnswersAsListed := by
  refine fun s => ⟨fun c => State.nextByte_of_pendingByte, fun c cs hchars => ?_,
    fun ps hpolls => ?_, fun ps hpolls => ?_, State.nextByte_eq_none⟩
  · rw [State.nextByte, hchars]
  · simp [State.pendingByte, State.pollAnswer, hpolls]
  · simp [State.pendingByte, State.pollAnswer, hpolls]

/-- Settles O16: reset memory lists no cell. -/
theorem memoryCanonicalAtReset : Obligations.MemoryCanonicalAtReset :=
  ⟨List.Pairwise.nil, fun _ h => absurd h List.not_mem_nil⟩

/-- Settles O20, by the model's two lemmas about `step`. -/
theorem stepRunsTheDecodedInstruction : Obligations.StepRunsTheDecodedInstruction :=
  ⟨fun _ hrun => step_running hrun, fun _ _ hstop h => hstop (step_next h).1⟩

end Sys2Proof.Proofs
end

section
/-! PROOFS. The statements of 20_memory.md: the keyboard poll, the canonical form of memory, which cells
a step can change, and that the stored cell 0xFE00 is never observed. -/

namespace Sys2Proof.Machine

/-! ### Stored cells -/

theorem State.cell_congr {s t : State} (h : t.mem = s.mem) (a : Word) : t.cell a = s.cell a :=
  congrArg (Memory.read · a.toNat) h

theorem State.setCell_sameCellsBut (s : State) (a v : Word) : SameCellsBut [a] s (s.setCell a v) :=
  fun _ hb => State.cell_setCell_other (List.ne_of_not_mem_cons hb) s v

theorem State.cell_foldl_setCell {a : Word} {stores : List (Word × Word)}
    (h : ∀ c ∈ stores, c.1 ≠ a) (s : State) :
    (stores.foldl (fun u c => u.setCell c.1 c.2) s).cell a = s.cell a := by
  induction stores generalizing s with
  | nil => rfl
  | cons c stores ih =>
    obtain ⟨hc, hstores⟩ := List.forall_mem_cons.1 h
    rw [List.foldl_cons, ih hstores, State.cell_setCell_other hc.symm]

theorem State.fetch_setPc_word {a : Word} (ha : a ≠ Config.kbsr) (s : State) :
    (s.setPc a).fetch.1 = s.cell a := by
  have hpc : (s.setPc a).pc ≠ Config.kbsr := ha
  rw [State.fetch_plain hpc, State.setPc_pc, State.setPc_cell]

/-! ### The keyboard poll -/

theorem State.memRead_kbsr_of_pending {s : State} {c : Byte} (h : s.pendingByte = some c) :
    s.memRead Config.kbsr =
      (0x8000, (s.dropPoll.dropByte.setCell Config.kbdr (zext16 c)).setCell Config.kbsr 0x8000) := by
  rw [State.memRead_kbsr, pollKeyboard, h]

theorem State.memRead_kbsr_of_idle {s : State} (h : s.pendingByte = none) :
    s.memRead Config.kbsr = (0x0000, s.dropPoll.setCell Config.kbsr 0x0000) := by
  rw [State.memRead_kbsr, pollKeyboard, h]

theorem State.pendingByte_of_listed {s : State} {c : Byte} {ps : List Bool} {cs : List Byte}
    (hpolls : s.polls = true :: ps) (hchars : s.chars = c :: cs) : s.pendingByte = some c := by
  rw [State.pendingByte, State.pollAnswer, State.nextByte, hpolls, hchars]
  rfl

/-- The poll's answer depends on the host alone. -/
theorem State.memRead_kbsr_word_congr {s t : State} (h : t.pendingByte = s.pendingByte) :
    (t.memRead Config.kbsr).1 = (s.memRead Config.kbsr).1 := by
  cases hs : s.pendingByte with
  | some c => rw [State.memRead_kbsr_of_pending hs, State.memRead_kbsr_of_pending (h.trans hs)]
  | none => rw [State.memRead_kbsr_of_idle hs, State.memRead_kbsr_of_idle (h.trans hs)]

/-! ### The canonical form -/

/-- A canonical memory lists exactly the cells that do not read as an unlisted one. -/
theorem Memory.mem_iff_read {m : Memory} (h : Memory.wf m) (c : MemCell) :
    c ∈ m ↔ c.1 < 65536 ∧ c.2 ≠ Config.unlistedCell ∧ Memory.read m c.1 = c.2 := by
  obtain ⟨hsorted, hcells⟩ := h
  induction m with
  | nil => simpa [Memory.read] using fun _ hc e => hc e.symm
  | cons d m ih =>
    obtain ⟨hd, hsorted⟩ := List.pairwise_cons.1 hsorted
    obtain ⟨hdcell, hcells⟩ := List.forall_mem_cons.1 hcells
    have ih := ih hsorted hcells
    rw [List.mem_cons, Memory.read]
    split
    next heq =>
      have hnot : c ∉ m := fun hc => (hd c hc).ne heq
      have hext : c = d ↔ d.2 = c.2 :=
        ⟨fun e => e ▸ rfl, fun e => Prod.ext heq.symm e.symm⟩
      rw [or_iff_left hnot, hext]
      exact ⟨fun e => ⟨heq ▸ hdcell.1, e ▸ hdcell.2, e⟩, fun ⟨_, _, e⟩ => e⟩
    next hne =>
      rw [or_iff_right (by rintro rfl; exact hne rfl), ih]

theorem ReadsTo.keeps_wf {s u : State} (h : ReadsTo s u) (hs : Memory.wf s.mem) :
    Memory.wf u.mem := by
  induction h with
  | refl => exact hs
  | tail _ hread ih =>
    obtain ⟨a, rfl⟩ := hread
    exact State.memRead_keeps_wf ih a

theorem State.writeString_keeps_memory (s : State) (r : List Byte × Bool) :
    (s.writeString r).mem = s.mem ∧ (s.writeString r).polled = s.polled := by
  obtain ⟨-, h⟩ | ⟨-, h⟩ := s.writeString_cases r <;> rw [h] <;> exact ⟨rfl, rfl⟩

/-- The memory an instruction leaves: some reads through the memory unit, then at most the store to
its own address. -/
theorem Effect.mem {i : Instr} {s t : State} (h : Effect i s t) :
    ∃ u, ReadsTo s u ∧ t.polled = u.polled ∧
      (t.mem = u.mem ∨ ∃ a v, storeAddress i s = some a ∧ t.mem = (u.setCell a v).mem) := by
  cases h with
  | result _ _ _ hu => exact ⟨_, hu, rfl, .inl rfl⟩
  | store v ha _ _ hu => exact ⟨_, hu, rfl, .inr ⟨_, v, ha, rfl⟩⟩
  | puts | putsp =>
    obtain ⟨hmem, hpolled⟩ := State.writeString_keeps_memory _ _
    exact ⟨s, .refl, hpolled, .inl hmem⟩
  | branchNotTaken | branch | jump | call | getc | inp | out | halt | undefinedTrap | rti | res =>
    exact ⟨s, .refl, rfl, .inl rfl⟩

theorem Effect.keeps_wf {i : Instr} {s t : State} (h : Effect i s t) (hs : Memory.wf s.mem) :
    Memory.wf t.mem := by
  obtain ⟨u, hu, -, hmem | ⟨a, v, -, hmem⟩⟩ := h.mem <;> rw [hmem]
  · exact hu.keeps_wf hs
  · exact State.setCell_keeps_wf (hu.keeps_wf hs) a v

theorem State.fetch_keeps_wf {s : State} (h : Memory.wf s.mem) : Memory.wf s.fetch.2.mem :=
  State.memRead_keeps_wf h s.pc

/-! ### Which cells a step can change -/

/-- From one state to the other no poll is undone, and no cell changes but the keyboard cells, and
these only with a poll. -/
def ChangedByPollsOnly (s t : State) : Prop :=
  s.polled ≤ t.polled ∧
    ∀ a, t.cell a = s.cell a ∨ ((a = Config.kbsr ∨ a = Config.kbdr) ∧ s.polled < t.polled)

theorem ChangedByPollsOnly.refl (s : State) : ChangedByPollsOnly s s :=
  ⟨le_rfl, fun _ => .inl rfl⟩

theorem ChangedByPollsOnly.trans {s t u : State} (hst : ChangedByPollsOnly s t)
    (htu : ChangedByPollsOnly t u) : ChangedByPollsOnly s u := by
  obtain ⟨hle, hcell⟩ := hst
  obtain ⟨hle', hcell'⟩ := htu
  refine ⟨hle.trans hle', fun a => ?_⟩
  obtain hsame' | ⟨hkey, hlt⟩ := hcell' a
  · rw [hsame']
    exact (hcell a).imp_right (And.imp_right hle'.trans_lt')
  · exact .inr ⟨hkey, hle.trans_lt hlt⟩

theorem State.memRead_changedByPollsOnly (s : State) (a : Word) :
    ChangedByPollsOnly s (s.memRead a).2 := by
  by_cases ha : a = Config.kbsr
  · have hpoll : (s.memRead a).2.polled = s.polled + 1 := by
      obtain ⟨hne, -⟩ | ⟨c, -, -, h⟩ | ⟨-, -, h⟩ := s.memRead_cases a
      · exact absurd ha hne
      · rw [h]; rfl
      · rw [h]; rfl
    refine ⟨by omega, fun b => ?_⟩
    by_cases hb : b = Config.kbsr ∨ b = Config.kbdr
    · exact .inr ⟨hb, by omega⟩
    · obtain ⟨hs, hd⟩ := not_or.1 hb
      exact .inl (s.memRead_cell a hs hd)
  · rw [State.memRead_plain ha]
    exact .refl s

theorem ReadsTo.changedByPollsOnly {s u : State} (h : ReadsTo s u) : ChangedByPollsOnly s u := by
  induction h with
  | refl => exact .refl s
  | tail _ hread ih =>
    obtain ⟨a, rfl⟩ := hread
    exact ih.trans (State.memRead_changedByPollsOnly _ a)

/-- The fetch's change of PC touches neither a cell nor the count of polls. -/
theorem State.fetch_changedByPollsOnly (s : State) : ChangedByPollsOnly s s.fetch.2 :=
  s.memRead_changedByPollsOnly s.pc

/-- Every cell that an instruction changes is the one it stores to, or a keyboard cell it polls. -/
theorem Effect.cell {i : Instr} {s t : State} (h : Effect i s t) (a : Word) :
    t.cell a = s.cell a ∨ storeAddress i s = some a ∨
      ((a = Config.kbsr ∨ a = Config.kbdr) ∧ s.polled < t.polled) := by
  obtain ⟨u, hu, hpolled, hmem⟩ := h.mem
  obtain ⟨-, hcell⟩ := hu.changedByPollsOnly
  have htu : t.cell a = u.cell a ∨ storeAddress i s = some a := by
    obtain hmem | ⟨b, v, hb, hmem⟩ := hmem
    · exact .inl (State.cell_congr hmem a)
    · by_cases hab : a = b
      · exact .inr (hab ▸ hb)
      · exact .inl ((State.cell_congr hmem a).trans (State.cell_setCell_other hab u v))
  rw [hpolled]
  obtain htu | hstore := htu
  · rw [htu]
    exact (hcell a).imp_right .inr
  · exact .inr (.inl hstore)

theorem Effect.polled_le {i : Instr} {s t : State} (h : Effect i s t) : s.polled ≤ t.polled := by
  obtain ⟨u, hu, hpolled, -⟩ := h.mem
  obtain ⟨hle, -⟩ := hu.changedByPollsOnly
  exact hpolled ▸ hle

theorem storeAddress_eq_some {i : Instr} {s : State} {a : Word} (h : storeAddress i s = some a) :
    (∃ sr off, i = .st sr off ∧ a = s.pcOffset9 off) ∨
      (∃ sr off, i = .sti sr off ∧ a = (s.pointer off).1) ∨
      ∃ sr b off, i = .str sr b off ∧ a = s.baseOffset6 b off := by
  unfold storeAddress at h
  split at h <;> cases h
  · exact .inl ⟨_, _, rfl, rfl⟩
  · exact .inr (.inl ⟨_, _, rfl, rfl⟩)
  · exact .inr (.inr ⟨_, _, _, rfl, rfl⟩)

/-- A step that leaves a cell keeps its word: the fetch's poll and the instruction's polls show in the
count of polls, which only grows. -/
theorem LeavesCell.cell_step {a : Word} {s t : State} (hleaves : LeavesCell a s)
    (ha : a ≠ Config.kbsr) (h : step s = .next t) : t.cell a = s.cell a := by
  obtain ⟨hstore, hpolls⟩ := hleaves
  obtain ⟨-, hexec⟩ := step_next h
  have heffect := effect_of_exec hexec
  obtain ⟨hle, hfetch⟩ := s.fetch_changedByPollsOnly
  have hle' := heffect.polled_le
  have hquiet : ¬ ((a = Config.kbsr ∨ a = Config.kbdr) ∧ s.polled < t.polled) := by
    rintro ⟨hkey, hlt⟩
    exact hlt.ne' (hpolls (hkey.resolve_left ha) t h)
  have hsame : s.fetch.2.cell a = s.cell a :=
    (hfetch a).resolve_right fun ⟨hkey, hlt⟩ => hquiet ⟨hkey, hlt.trans_le hle'⟩
  obtain hsame' | hstore' | ⟨hkey, hlt⟩ := heffect.cell a
  · exact hsame'.trans hsame
  · exact absurd hstore' hstore
  · exact absurd ⟨hkey, hle.trans_lt hlt⟩ hquiet

theorem run_succ_of_step {s u : State} (h : step s = .next u) (k : Nat) :
    Sys2Proof.core.run (k + 1) s = Sys2Proof.core.run k u := by
  have hcore : Sys2Proof.core.step s = .next u := h
  simp only [Host.Core.run, hcore]

theorem step_of_run_succ {k : Nat} {s t : State} (h : Sys2Proof.core.run (k + 1) s = .next t) :
    ∃ u, step s = .next u := by
  cases hs : Sys2Proof.core.step s with
  | next u => exact ⟨u, hs⟩
  | fault | refused => simp [Host.Core.run, hs] at h

theorem cell_run_of_leavesCell {a : Word} (ha : a ≠ Config.kbsr) {k : Nat} {s t : State}
    (hleaves : ∀ j < k, ∀ u, Sys2Proof.core.run j s = .next u → LeavesCell a u)
    (h : Sys2Proof.core.run k s = .next t) : t.cell a = s.cell a := by
  induction k generalizing s with
  | zero =>
    cases h
    rfl
  | succ k ih =>
    obtain ⟨u, hu⟩ := step_of_run_succ h
    have hrest : ∀ j < k, ∀ w, Sys2Proof.core.run j u = .next w → LeavesCell a w :=
      fun j hj w hw => hleaves (j + 1) (by omega) w ((run_succ_of_step hu j).trans hw)
    rw [ih hrest (run_succ_of_step hu k ▸ h)]
    exact (hleaves 0 (by omega) s rfl).cell_step ha hu

/-! ### The stored cell 0xFE00 is never observed -/

/-- The state with another memory. -/
def State.withMem (s : State) (m : Memory) : State := { s with mem := m }

theorem sameButKbsrCell_withMem {s : State} {m : Memory} :
    SameButKbsrCell s (s.withMem m) ↔
      ∀ a : Word, a ≠ Config.kbsr → Memory.read m a.toNat = Memory.read s.mem a.toNat := by
  simp only [SameButKbsrCell, SameCellsBut, List.mem_singleton]
  exact and_iff_right rfl

theorem SameButKbsrCell.exists_withMem {s s' : State} (h : SameButKbsrCell s s') :
    ∃ m, s' = s.withMem m :=
  ⟨s'.mem, h.1⟩

theorem SameButKbsrCell.setCell {s s' : State} (h : SameButKbsrCell s s') (a v : Word) :
    SameButKbsrCell (s.setCell a v) (s'.setCell a v) := by
  obtain ⟨m, rfl⟩ := h.exists_withMem
  obtain ⟨-, hcells⟩ := h
  refine ⟨rfl, fun b hb => ?_⟩
  by_cases hab : b = a
  · rw [hab, State.cell_setCell_same, State.cell_setCell_same]
  · rw [State.cell_setCell_other hab, State.cell_setCell_other hab, hcells b hb]

/-- What neither reads nor writes memory keeps two such states alike. -/
theorem SameButKbsrCell.of_mem_eq {s t : State} {m : Memory}
    (h : SameButKbsrCell s (s.withMem m)) (ht : t.mem = s.mem) :
    SameButKbsrCell t (t.withMem m) := by
  rw [sameButKbsrCell_withMem, ht]
  exact sameButKbsrCell_withMem.1 h

theorem SameButKbsrCell.next_of_mem_eq {s t : State} {m : Memory}
    (h : SameButKbsrCell s (s.withMem m)) (ht : t.mem = s.mem := by rfl) :
    OutcomeRel SameButKbsrCell (.next t) (.next (t.withMem m)) :=
  h.of_mem_eq ht

/-- A read through the memory unit answers alike and leaves the states alike: at 0xFE00 it answers
what the host says and overwrites the stored cell. -/
theorem SameButKbsrCell.memRead {s s' : State} (h : SameButKbsrCell s s') (a : Word) :
    (s'.memRead a).1 = (s.memRead a).1 ∧ SameButKbsrCell (s.memRead a).2 (s'.memRead a).2 := by
  obtain ⟨m, rfl⟩ := h.exists_withMem
  have hpending : (s.withMem m).pendingByte = s.pendingByte := rfl
  obtain ⟨ha, hs⟩ | ⟨c, rfl, hc, hs⟩ | ⟨rfl, hc, hs⟩ := s.memRead_cases a
  · rw [hs, State.memRead_plain ha]
    exact ⟨sameButKbsrCell_withMem.1 h a ha, h⟩
  · rw [hs, State.memRead_kbsr_of_pending (hpending.trans hc)]
    have hdrop := h.of_mem_eq (t := s.dropPoll.dropByte) rfl
    exact ⟨rfl, (hdrop.setCell _ _).setCell _ _⟩
  · rw [hs, State.memRead_kbsr_of_idle (hpending.trans hc)]
    have hdrop := h.of_mem_eq (t := s.dropPoll) rfl
    exact ⟨rfl, hdrop.setCell _ _⟩

theorem toNat_kbsr_sub_of_ne {a : Word} (h : a ≠ Config.kbsr) :
    (Config.kbsr - a).toNat = (Config.kbsr - (a + 1)).toNat + 1 := by
  unfold Config.kbsr at *
  bv_omega

/-- The scan stops before it reads the cell 0xFE00. -/
theorem scanFrom_congr {m m' : Memory}
    (h : ∀ a : Word, a ≠ Config.kbsr → Memory.read m a.toNat = Memory.read m' a.toNat)
    (bytesOf : Word → List Byte) (a : Word) : scanFrom bytesOf m a = scanFrom bytesOf m' a := by
  induction hd : (Config.kbsr - a).toNat generalizing a with
  | zero => rw [scanFrom, scanFrom, hd, scanString, scanString]
  | succ d ih =>
    have ha : a ≠ Config.kbsr := by
      rintro rfl
      simp at hd
    have hd' : (Config.kbsr - (a + 1)).toNat = d := by
      rw [toNat_kbsr_sub_of_ne ha] at hd
      omega
    rw [scanFrom_unfold bytesOf m, ih (a + 1) hd', h a ha, ← scanFrom_unfold]

section withMem
variable {s : State} {m : Memory} (h : SameButKbsrCell s (s.withMem m))
include h

theorem SameButKbsrCell.writeString {t : State} (ht : t.mem = s.mem)
    (bytesOf : Word → List Byte) (a : Word) :
    SameButKbsrCell (t.writeString (scanFrom bytesOf s.mem a))
      ((t.withMem m).writeString (scanFrom bytesOf m a)) := by
  rw [scanFrom_congr (sameButKbsrCell_withMem.1 h)]
  generalize scanFrom bytesOf s.mem a = r
  have hcomm : (t.withMem m).writeString r = (t.writeString r).withMem m := by
    unfold State.writeString
    split <;> rfl
  obtain ⟨hmem, -⟩ := t.writeString_keeps_memory r
  rw [hcomm]
  exact h.of_mem_eq (hmem.trans ht)

theorem execBr_sameButKbsrCell (nzp : BitVec 3) (off : BitVec 9) :
    OutcomeRel SameButKbsrCell (execBr nzp off s) (execBr nzp off (s.withMem m)) := by
  have hcond : (s.withMem m).cond = s.cond := rfl
  rw [execBr, execBr, hcond]
  split <;> exact h.next_of_mem_eq

/-- What reads one byte from the host and then leaves memory alone does alike. -/
theorem SameButKbsrCell.readByte {f : State → Host.Outcome State Fault Refusal}
    {g : Byte → State → State} (hnext : ∀ {u c}, u.nextByte = some c → f u = .next (g c u))
    (hblocks : ∀ {u}, u.nextByte = none → f u = .fault .hostReadBlocks)
    (hg : ∀ c, g c (s.withMem m) = (g c s).withMem m) (hmem : ∀ c, (g c s).mem = s.mem) :
    OutcomeRel SameButKbsrCell (f s) (f (s.withMem m)) := by
  have hsame : (s.withMem m).nextByte = s.nextByte := rfl
  cases hb : s.nextByte with
  | some c =>
    rw [hnext hb, hnext (hsame.trans hb), hg]
    exact h.next_of_mem_eq (hmem c)
  | none =>
    rw [hblocks hb, hblocks (hsame.trans hb)]
    rfl

theorem execGetc_sameButKbsrCell :
    OutcomeRel SameButKbsrCell (execGetc s) (execGetc (s.withMem m)) :=
  h.readByte execGetc_next execGetc_blocks (fun _ => rfl) (fun _ => rfl)

theorem execIn_sameButKbsrCell :
    OutcomeRel SameButKbsrCell (execIn s) (execIn (s.withMem m)) :=
  h.readByte execIn_next execIn_blocks (fun _ => rfl) (fun _ => rfl)

theorem execOut_sameButKbsrCell :
    OutcomeRel SameButKbsrCell (execOut s) (execOut (s.withMem m)) :=
  h.next_of_mem_eq

theorem execPuts_sameButKbsrCell :
    OutcomeRel SameButKbsrCell (execPuts s) (execPuts (s.withMem m)) :=
  h.writeString (t := s.enterTrap) rfl putsBytes (s.reg .r0)

theorem execPutsp_sameButKbsrCell :
    OutcomeRel SameButKbsrCell (execPutsp s) (execPutsp (s.withMem m)) :=
  h.writeString (t := s.enterTrap) rfl putspBytes (s.reg .r0)

theorem execHalt_sameButKbsrCell :
    OutcomeRel SameButKbsrCell (execHalt s) (execHalt (s.withMem m)) :=
  h.next_of_mem_eq

theorem execTrap_sameButKbsrCell (v : BitVec 8) :
    OutcomeRel SameButKbsrCell (execTrap v s) (execTrap v (s.withMem m)) := by
  obtain ⟨rfl, -⟩ | ⟨rfl, -⟩ | ⟨rfl, -⟩ | ⟨rfl, -⟩ | ⟨rfl, -⟩ | ⟨rfl, -⟩ | ⟨hv, -⟩ :=
    execTrap_cases v s
  · exact execGetc_sameButKbsrCell h
  · exact execOut_sameButKbsrCell h
  · exact execPuts_sameButKbsrCell h
  · exact execIn_sameButKbsrCell h
  · exact execPutsp_sameButKbsrCell h
  · exact execHalt_sameButKbsrCell h
  · rw [execTrap_undefined hv, execTrap_undefined hv]
    exact h.next_of_mem_eq

end withMem

section related
variable {s s' : State} (h : SameButKbsrCell s s')
include h

theorem SameButKbsrCell.loadInto (dr : Reg) (ea : Word) :
    SameButKbsrCell (s.loadInto dr ea) (s'.loadInto dr ea) := by
  obtain ⟨hword, hstate⟩ := h.memRead ea
  obtain ⟨m, hm⟩ := hstate.exists_withMem
  rw [State.loadInto, State.loadInto, hword, hm]
  rw [hm] at hstate
  exact hstate.of_mem_eq rfl

theorem SameButKbsrCell.pointer (off : BitVec 9) :
    (s'.pointer off).1 = (s.pointer off).1 ∧
      SameButKbsrCell (s.pointer off).2 (s'.pointer off).2 := by
  obtain ⟨m, rfl⟩ := h.exists_withMem
  exact h.memRead (s.pcOffset9 off)

theorem SameButKbsrCell.fetch :
    s'.fetch.1 = s.fetch.1 ∧ SameButKbsrCell s.fetch.2 s'.fetch.2 := by
  obtain ⟨m, rfl⟩ := h.exists_withMem
  obtain ⟨hword, hstate, hcells⟩ := h.memRead s.pc
  exact ⟨hword, congrArg (·.setPc (s.pc + 1)) hstate, hcells⟩

/-- Every instruction does alike in two states that differ at most in the stored cell 0xFE00. -/
theorem exec_sameButKbsrCell (i : Instr) :
    OutcomeRel SameButKbsrCell (exec i s) (exec i s') := by
  obtain ⟨m, rfl⟩ := h.exists_withMem
  cases i with
  | addReg | addImm | andReg | andImm | not | lea => exact h.next_of_mem_eq
  | jmp | ret | jsr | jsrr | rti | res => exact h.next_of_mem_eq
  | br nzp off => exact execBr_sameButKbsrCell h nzp off
  | ld | ldr => exact h.loadInto _ _
  | st | str => exact h.setCell _ _
  | ldi dr off =>
    obtain ⟨hword, hstate⟩ := h.pointer off
    rw [exec, exec, execLdi, execLdi, hword]
    exact hstate.loadInto dr _
  | sti sr off =>
    obtain ⟨hword, hstate⟩ := h.pointer off
    rw [exec, exec, execSti, execSti, hword]
    exact hstate.setCell _ (s.reg sr)
  | trap v => exact execTrap_sameButKbsrCell h v
  | getc => exact execGetc_sameButKbsrCell h
  | out => exact execOut_sameButKbsrCell h
  | puts => exact execPuts_sameButKbsrCell h
  | inp => exact execIn_sameButKbsrCell h
  | putsp => exact execPutsp_sameButKbsrCell h
  | halt => exact execHalt_sameButKbsrCell h

theorem step_sameButKbsrCell : OutcomeRel SameButKbsrCell (step s) (step s') := by
  have hsame : s'.status = s.status := by
    obtain ⟨m, rfl⟩ := h.exists_withMem
    rfl
  cases hs : s.status with
  | running =>
    obtain ⟨hword, hstate⟩ := h.fetch
    rw [step_running hs, step_running (hsame.trans hs), hword]
    exact exec_sameButKbsrCell hstate _
  | halted | faulted =>
    rw [step, step, hsame, hs]
    rfl

end related

end Sys2Proof.Machine

namespace Sys2Proof.Proofs

open Sys2Proof.Machine

/-- Settles O17: the fetch, an instruction's reads and its store each keep the canonical form. -/
theorem stepKeepsMemoryCanonical : Obligations.StepKeepsMemoryCanonical := by
  intro s t hs h
  obtain ⟨-, hexec⟩ := step_next h
  exact (effect_of_exec hexec).keeps_wf (State.fetch_keeps_wf hs)

/-- Settles O32: a read of 0xFE00 overwrites the stored cell before it answers, and the string scan
stops there. -/
theorem storedKbsrIsUnobservable : Obligations.StoredKbsrIsUnobservable :=
  fun _ _ h => step_sameButKbsrCell h

/-- Settles O11, by the two forms of the poll. -/
theorem keyboardPollLatchesOrAnswersZero : Obligations.KeyboardPollLatchesOrAnswersZero := by
  refine fun s => ⟨fun c hc => ⟨_, State.memRead_kbsr_of_pending hc, ?_, ?_, fun a ha => ?_, rfl⟩,
    fun hc => ⟨_, State.memRead_kbsr_of_idle hc, ?_, ?_, rfl⟩⟩
  · have hne : Config.kbdr ≠ Config.kbsr := by decide
    show State.cell _ Config.kbdr = _
    rw [State.cell_setCell_other hne, State.cell_setCell_same, zext16_eq_append]
  · exact State.cell_setCell_same _ _ _
  · obtain ⟨hs, hd⟩ : a ≠ Config.kbsr ∧ a ≠ Config.kbdr := by
      simpa [Config.kbsr, Config.kbdr] using ha
    rw [State.cell_setCell_other hs, State.cell_setCell_other hd, State.dropByte_cell,
      State.dropPoll_cell]
  · exact State.cell_setCell_same _ _ _
  · exact State.setCell_sameCellsBut s.dropPoll Config.kbsr _

/-- Settles O18: both lists are sorted, and the cells decide which pairs they hold. -/
theorem canonicalMemoriesAreDeterminedByTheirCells :
    Obligations.CanonicalMemoriesAreDeterminedByTheirCells := by
  intro m m' hm hm' hcells
  have : Std.Asymm (fun x y : MemCell => x.1 < y.1) := ⟨fun _ _ => lt_asymm⟩
  refine hm.1.eq_of_mem_iff hm'.1 fun c => ?_
  rw [Memory.mem_iff_read hm, Memory.mem_iff_read hm']
  refine and_congr_right fun hc => ?_
  have hread := hcells (BitVec.ofNat 16 c.1)
  rw [BitVec.toNat_ofNat, Nat.mod_eq_of_lt hc] at hread
  rw [hread]

/-- Settles O19: a fetch reads the stored cell, which stores elsewhere and steps that leave the cell
keep. -/
theorem fetchSeesTheLatestStore : Obligations.FetchSeesTheLatestStore := by
  refine ⟨fun s a v stores ha hstores => ?_, fun k s t a ha hleaves hrun => ?_⟩
  · rw [State.fetch_setPc_word ha, State.cell_foldl_setCell hstores, State.cell_setCell_same]
  · rw [State.fetch_setPc_word ha, State.fetch_setPc_word ha,
      cell_run_of_leavesCell ha hleaves hrun]

/-- Settles O30, by the cells that each effect leaves. -/
theorem memoryChangedOnlyByStoresAndPolls : Obligations.MemoryChangedOnlyByStoresAndPolls := by
  intro i s t a h hchanged
  obtain hstore | hpoll := ((effect_of_exec h).cell a).resolve_left hchanged
  · obtain hst | hsti | hstr := storeAddress_eq_some hstore
    · exact .inl hst
    · exact .inr (.inl hsti)
    · exact .inr (.inr (.inl hstr))
  · exact .inr (.inr (.inr hpoll))

/-- Settles O10, by the memory unit's law for plain addresses. -/
theorem plainReadReturnsStoredCell : Obligations.PlainReadReturnsStoredCell :=
  fun s _ h => State.memRead_plain h s

/-- Settles O12: the laws of a read after a write, and the poll's answer, which no cell decides. -/
theorem storeIsUnconditional : Obligations.StoreIsUnconditional := by
  refine ⟨fun s a v => ?_, fun s v => State.memRead_kbsr_word_congr rfl, fun s v => ?_⟩
  · exact ⟨State.cell_setCell_same s a v, s.setCell_sameCellsBut a v, fun _ _ => rfl, rfl, rfl,
      ⟨rfl, rfl⟩, rfl, rfl, rfl, rfl, rfl⟩
  · have hne : (0xFE02 : Word) ≠ Config.kbsr := by decide
    rw [State.memRead_plain hne, State.cell_setCell_same]

/-- Settles O13: each poll does what O11 says, with the answers that O14 lists. -/
theorem successivePolls : Obligations.SuccessivePolls := by
  refine ⟨fun s c d ps cs hpolls hchars => ?_, fun s ps hpolls => ?_⟩
  · obtain ⟨hlatch, -⟩ := keyboardPollLatchesOrAnswersZero s
    obtain ⟨t, ht, hcell, -, -, hstate⟩ := hlatch c (State.pendingByte_of_listed hpolls hchars)
    have hpolls' : t.polls = true :: ps := by rw [hstate, hpolls]; rfl
    have hchars' : t.chars = d :: cs := by rw [hstate, hchars]; rfl
    obtain ⟨hlatch', -⟩ := keyboardPollLatchesOrAnswersZero t
    obtain ⟨u, hu, hcell', -, -, hstate'⟩ := hlatch' d (State.pendingByte_of_listed hpolls' hchars')
    rw [ht, hu]
    exact ⟨hcell, hcell', by rw [hstate', hchars']; rfl⟩
  · obtain ⟨-, -, hfalse, -⟩ := hostAnswersAsListed s
    obtain ⟨-, hidle⟩ := keyboardPollLatchesOrAnswersZero s
    obtain ⟨t, ht, -, hcells, hstate⟩ := hidle (hfalse _ hpolls)
    have hpolls' : t.polls = false :: ps := by rw [hstate, hpolls]; rfl
    obtain ⟨-, -, hfalse', -⟩ := hostAnswersAsListed t
    obtain ⟨-, hidle'⟩ := keyboardPollLatchesOrAnswersZero t
    obtain ⟨u, hu, -, hcells', -⟩ := hidle' (hfalse' _ hpolls')
    have hne : (0xFE02 : Word) ∉ [(0xFE00 : Word)] := by decide
    rw [ht, hu]
    exact ⟨rfl, rfl, (hcells' _ hne).trans (hcells _ hne)⟩

end Sys2Proof.Proofs
end

section
/-! PROOFS. The statements of 30_encoding.md: the decoder, the encoder, the bits a format ignores
and the opcode table. `decode_of_sameBitsBut` and `sameBitsBut_encode_decode` say together which words
decode to an instruction: those that agree with its encoding outside the bits its format ignores
(rule R59). -/

namespace Sys2Proof

open Laws.OpcodeBits (opcodeOf)
open Machine (ignoredBits)

/-! ### Words that agree outside a mask -/

/-- Two bit vectors agree in every bit that a mask does not set. -/
def SameBitsBut {n : Nat} (m v w : BitVec n) : Prop := v &&& ~~~ m = w &&& ~~~ m

namespace SameBitsBut

section
variable {n : Nat} {m u v w : BitVec n}

theorem refl (m v : BitVec n) : SameBitsBut m v v := Eq.refl (v &&& ~~~ m)

theorem of_eq (h : v = w) : SameBitsBut m v w := h ▸ refl m v

theorem symm (h : SameBitsBut m v w) : SameBitsBut m w v := Eq.symm h

theorem trans (huv : SameBitsBut m u v) (hvw : SameBitsBut m v w) : SameBitsBut m u w :=
  Eq.trans huv hvw

theorem eq_of_zero (h : SameBitsBut 0 v w) : v = w := by simpa [SameBitsBut] using h

theorem allOnes (v w : BitVec n) : SameBitsBut (BitVec.allOnes n) v w := by simp [SameBitsBut]

theorem getLsbD (h : SameBitsBut m v w) {i : Nat} (hm : m.getLsbD i = false) :
    v.getLsbD i = w.getLsbD i := by
  by_cases hi : i < n
  · rw [BitVec.getLsbD_eq_getElem hi] at hm
    simpa [hm, hi] using congrArg (·.getLsbD i) h
  · rw [BitVec.getLsbD_of_ge v i (by omega), BitVec.getLsbD_of_ge w i (by omega)]

theorem extractLsb' (h : SameBitsBut m v w) {start len : Nat} (hm : m.extractLsb' start len = 0) :
    v.extractLsb' start len = w.extractLsb' start len := by
  refine BitVec.eq_of_getLsbD_eq fun i hi => ?_
  have hbit : m.getLsbD (start + i) = false := by simpa [hi] using congrArg (·.getLsbD i) hm
  simp only [BitVec.getLsbD_extractLsb', h.getLsbD hbit]

theorem append {k : Nat} {m' v' w' : BitVec k} (h : SameBitsBut m v w)
    (h' : SameBitsBut m' v' w') : SameBitsBut (m ++ m') (v ++ v') (w ++ w') := by
  unfold SameBitsBut at *
  rw [BitVec.not_append, BitVec.and_append, BitVec.and_append, h, h']

/-- Bits of `x` put in place of those that the mask sets. -/
theorem overwrite (m w x : BitVec n) : SameBitsBut m ((w &&& ~~~ m) ||| (x &&& m)) w := by
  refine BitVec.eq_of_getLsbD_eq fun i hi => ?_
  cases hm : m.getLsbD i <;> simp [hm]

end

/-! A field that the mask does not touch reads the same. -/

section
variable {m v w : Word} (h : SameBitsBut m v w)
include h

theorem opcode (hm : Field.opcode m = 0) : Field.opcode v = Field.opcode w := h.extractLsb' hm

theorem reg11 (hm : Field.nzp m = 0) : Field.reg11 v = Field.reg11 w :=
  congrArg Reg.ofBits (h.extractLsb' hm)

theorem reg8 (hm : m.extractLsb 8 6 = 0) : Field.reg8 v = Field.reg8 w :=
  congrArg Reg.ofBits (h.extractLsb' hm)

theorem reg2 (hm : m.extractLsb 2 0 = 0) : Field.reg2 v = Field.reg2 w :=
  congrArg Reg.ofBits (h.extractLsb' hm)

theorem vect8 (hm : Field.vect8 m = 0) : Field.vect8 v = Field.vect8 w := h.extractLsb' hm

theorem immMode (hm : Field.immMode m = false) : Field.immMode v = Field.immMode w := h.getLsbD hm

theorem longMode (hm : Field.longMode m = false) : Field.longMode v = Field.longMode w :=
  h.getLsbD hm

end

/-! Words of one layout agree field by field. -/

theorem packRegReg {mop op op' : BitVec 4} {ma a a' mb b b' : BitVec 3} {ml low low' : BitVec 6}
    (hop : SameBitsBut mop op op') (ha : SameBitsBut ma a a') (hb : SameBitsBut mb b b')
    (hlow : SameBitsBut ml low low') :
    SameBitsBut (packRegReg mop ma mb ml) (packRegReg op a b low) (packRegReg op' a' b' low') :=
  ((hop.append ha).append hb).append hlow

theorem packVect8 {mop op op' mi i i' : BitVec 4} {mv v v' : BitVec 8}
    (hop : SameBitsBut mop op op') (hi : SameBitsBut mi i i') (hv : SameBitsBut mv v v') :
    SameBitsBut (packVect8 mop mi mv) (packVect8 op i v) (packVect8 op' i' v') :=
  (hop.append hi).append hv

end SameBitsBut

/-! ### The fields of a packed word -/

section packRegReg
variable (op : BitVec 4) (a b : BitVec 3) (low : BitVec 6)

@[simp] theorem packRegReg_reg11 : Field.reg11 (packRegReg op a b low) = Reg.ofBits a :=
  congrArg Reg.ofBits (packRegReg_extract11 op a b low)

@[simp] theorem packRegReg_reg8 : Field.reg8 (packRegReg op a b low) = Reg.ofBits b :=
  congrArg Reg.ofBits (packRegReg_extract8 op a b low)

@[simp] theorem packRegReg_immMode_reg (k : BitVec 3) (r : BitVec 3) :
    Field.immMode (packRegReg op a b (k ++ r)) = k.getLsbD 2 := by
  rw [Field.immMode, packRegReg_bitLow _ _ _ _ (by decide), BitVec.getLsbD_append,
    if_neg (by decide)]

@[simp] theorem packRegReg_immMode_imm (f : BitVec 1) (imm : BitVec 5) :
    Field.immMode (packRegReg op a b (f ++ imm)) = f.getLsbD 0 := by
  rw [Field.immMode, packRegReg_bitLow _ _ _ _ (by decide), BitVec.getLsbD_append,
    if_neg (by decide)]

@[simp] theorem packRegReg_reg2 (k : BitVec 3) (r : BitVec 3) :
    Field.reg2 (packRegReg op a b (k ++ r)) = Reg.ofBits r := by
  refine congrArg Reg.ofBits ?_
  show BitVec.extractLsb' 0 3 (packRegReg op a b (k ++ r)) = r
  rw [packRegReg_extractLow _ _ _ _ (by decide), BitVec.extractLsb'_append_eq_of_add_le (by decide)]
  simp

@[simp] theorem packRegReg_imm5 (f : BitVec 1) (imm : BitVec 5) :
    Field.imm5 (packRegReg op a b (f ++ imm)) = imm := by
  show BitVec.extractLsb' 0 5 (packRegReg op a b (f ++ imm)) = imm
  rw [packRegReg_extractLow _ _ _ _ (by decide), BitVec.extractLsb'_append_eq_of_add_le (by decide)]
  simp

@[simp] theorem packRegReg_longMode : Field.longMode (packRegReg op a b low) = a.getLsbD 2 := by
  show (op ++ a ++ b ++ low).getLsbD 11 = _
  rw [BitVec.getLsbD_append, if_neg (by decide), BitVec.getLsbD_append, if_neg (by decide),
    BitVec.getLsbD_append, if_pos (by decide)]

end packRegReg

@[simp] theorem packOffset9_reg11 (op : BitVec 4) (a : BitVec 3) (off : BitVec 9) :
    Field.reg11 (packOffset9 op a off) = Reg.ofBits a :=
  congrArg Reg.ofBits (packOffset9_extract11 op a off)

@[simp] theorem packOffset9_nzp (op : BitVec 4) (a : BitVec 3) (off : BitVec 9) :
    Field.nzp (packOffset9 op a off) = a :=
  packOffset9_extract11 op a off

/-! ### A word is made of its fields -/

@[simp] theorem toBits_reg11 (w : Word) : (Field.reg11 w).toBits = Field.nzp w :=
  Reg.toBits_ofBits _

/-- Fields that lie next to each other are one field. -/
theorem extractLsb'_append_adjacent (w : Word) (start len len' : Nat) :
    w.extractLsb' (start + len) len' ++ w.extractLsb' start len =
      w.extractLsb' start (len' + len) :=
  BitVec.extractLsb'_append_extractLsb'_eq_extractLsb' rfl

/-- A bit is a field of width 1. -/
theorem ofBool_getLsbD (w : Word) (i : Nat) : BitVec.ofBool (w.getLsbD i) = w.extractLsb' i 1 := by
  refine BitVec.eq_of_getLsbD_eq fun j hj => ?_
  obtain rfl : j = 0 := by omega
  simp

theorem eq_packRegReg {w : Word} {op : BitVec 4} (h : Field.opcode w = op) :
    w = packRegReg op (Field.nzp w) (Field.reg8 w).toBits (Field.offset6 w) := by
  subst h
  symm
  have hb : (Field.reg8 w).toBits = w.extractLsb' 6 3 := Reg.toBits_ofBits _
  rw [hb]
  show w.extractLsb' 12 4 ++ w.extractLsb' 9 3 ++ w.extractLsb' 6 3 ++ w.extractLsb' 0 6 = w
  rw [extractLsb'_append_adjacent w 9 3 4, extractLsb'_append_adjacent w 6 3 7,
    extractLsb'_append_adjacent w 0 6 10, BitVec.extractLsb'_eq_self]

theorem eq_packOffset9 {w : Word} {op : BitVec 4} (h : Field.opcode w = op) :
    w = packOffset9 op (Field.nzp w) (Field.offset9 w) := by
  subst h
  symm
  show w.extractLsb' 12 4 ++ w.extractLsb' 9 3 ++ w.extractLsb' 0 9 = w
  rw [extractLsb'_append_adjacent w 9 3 4, extractLsb'_append_adjacent w 0 9 7,
    BitVec.extractLsb'_eq_self]

theorem eq_packOffset11 {w : Word} {op : BitVec 4} (h : Field.opcode w = op) :
    w = packOffset11 op (BitVec.ofBool (Field.longMode w)) (Field.offset11 w) := by
  subst h
  symm
  have hf : BitVec.ofBool (Field.longMode w) = w.extractLsb' 11 1 := ofBool_getLsbD w 11
  rw [hf]
  show w.extractLsb' 12 4 ++ w.extractLsb' 11 1 ++ w.extractLsb' 0 11 = w
  rw [extractLsb'_append_adjacent w 11 1 4, extractLsb'_append_adjacent w 0 11 5,
    BitVec.extractLsb'_eq_self]

theorem eq_packVect8 {w : Word} {op : BitVec 4} (h : Field.opcode w = op) :
    w = packVect8 op (w.extractLsb 11 8) (Field.vect8 w) := by
  subst h
  symm
  show w.extractLsb' 12 4 ++ w.extractLsb' 8 4 ++ w.extractLsb' 0 8 = w
  rw [extractLsb'_append_adjacent w 8 4 4, extractLsb'_append_adjacent w 0 8 8,
    BitVec.extractLsb'_eq_self]

theorem nzp_fields (w : Word) :
    BitVec.ofBool (Field.longMode w) ++ w.extractLsb 10 9 = Field.nzp w := by
  have hf : BitVec.ofBool (Field.longMode w) = w.extractLsb' 11 1 := ofBool_getLsbD w 11
  rw [hf]
  exact extractLsb'_append_adjacent w 9 2 1

theorem offset6_fields_imm (w : Word) :
    BitVec.ofBool (Field.immMode w) ++ Field.imm5 w = Field.offset6 w := by
  have hf : BitVec.ofBool (Field.immMode w) = w.extractLsb' 5 1 := ofBool_getLsbD w 5
  rw [hf]
  exact extractLsb'_append_adjacent w 0 5 1

theorem offset6_fields_reg (w : Word) :
    BitVec.ofBool (Field.immMode w) ++ w.extractLsb 4 3 ++ (Field.reg2 w).toBits =
      Field.offset6 w := by
  have hf : BitVec.ofBool (Field.immMode w) = w.extractLsb' 5 1 := ofBool_getLsbD w 5
  have hr : (Field.reg2 w).toBits = w.extractLsb' 0 3 := Reg.toBits_ofBits _
  rw [hf, hr]
  show w.extractLsb' 5 1 ++ w.extractLsb' 3 2 ++ w.extractLsb' 0 3 = w.extractLsb' 0 6
  rw [extractLsb'_append_adjacent w 3 2 1, extractLsb'_append_adjacent w 0 3 3]

/-! ### The decoder, one equation for each core row of the opcode table -/

section decode
variable {w : Word}

theorem decode_of_br_opcode (h : Field.opcode w = 0x0#4) :
    decode w = .br (Field.nzp w) (Field.offset9 w) := by simp only [decode, h]

theorem decode_of_addReg_format (h : Field.opcode w = 0x1#4) (hm : Field.immMode w = false) :
    decode w = .addReg (Field.reg11 w) (Field.reg8 w) (Field.reg2 w) := by simp [decode, h, hm]

theorem decode_of_addImm_format (h : Field.opcode w = 0x1#4) (hm : Field.immMode w = true) :
    decode w = .addImm (Field.reg11 w) (Field.reg8 w) (Field.imm5 w) := by simp [decode, h, hm]

theorem decode_of_ld_opcode (h : Field.opcode w = 0x2#4) :
    decode w = .ld (Field.reg11 w) (Field.offset9 w) := by simp only [decode, h]

theorem decode_of_st_opcode (h : Field.opcode w = 0x3#4) :
    decode w = .st (Field.reg11 w) (Field.offset9 w) := by simp only [decode, h]

theorem decode_of_jsr_format (h : Field.opcode w = 0x4#4) (hm : Field.longMode w = true) :
    decode w = .jsr (Field.offset11 w) := by simp [decode, h, hm]

theorem decode_of_jsrr_format (h : Field.opcode w = 0x4#4) (hm : Field.longMode w = false) :
    decode w = .jsrr (Field.reg8 w) := by simp [decode, h, hm]

theorem decode_of_andReg_format (h : Field.opcode w = 0x5#4) (hm : Field.immMode w = false) :
    decode w = .andReg (Field.reg11 w) (Field.reg8 w) (Field.reg2 w) := by simp [decode, h, hm]

theorem decode_of_andImm_format (h : Field.opcode w = 0x5#4) (hm : Field.immMode w = true) :
    decode w = .andImm (Field.reg11 w) (Field.reg8 w) (Field.imm5 w) := by simp [decode, h, hm]

theorem decode_of_ldr_opcode (h : Field.opcode w = 0x6#4) :
    decode w = .ldr (Field.reg11 w) (Field.reg8 w) (Field.offset6 w) := by simp only [decode, h]

theorem decode_of_str_opcode (h : Field.opcode w = 0x7#4) :
    decode w = .str (Field.reg11 w) (Field.reg8 w) (Field.offset6 w) := by simp only [decode, h]

theorem decode_of_rti_opcode (h : Field.opcode w = 0x8#4) : decode w = .rti := by
  simp only [decode, h]

theorem decode_of_not_opcode (h : Field.opcode w = 0x9#4) :
    decode w = .not (Field.reg11 w) (Field.reg8 w) := by simp only [decode, h]

theorem decode_of_ldi_opcode (h : Field.opcode w = 0xA#4) :
    decode w = .ldi (Field.reg11 w) (Field.offset9 w) := by simp only [decode, h]

theorem decode_of_sti_opcode (h : Field.opcode w = 0xB#4) :
    decode w = .sti (Field.reg11 w) (Field.offset9 w) := by simp only [decode, h]

theorem decode_of_jmp_opcode (h : Field.opcode w = 0xC#4) :
    decode w = decodeJmp (Field.reg8 w) := by simp only [decode, h]

theorem decode_of_res_opcode (h : Field.opcode w = 0xD#4) : decode w = .res := by
  simp only [decode, h]

theorem decode_of_lea_opcode (h : Field.opcode w = 0xE#4) :
    decode w = .lea (Field.reg11 w) (Field.offset9 w) := by simp only [decode, h]

end decode

/-! ### Names and expansions -/

/-- The instruction as the decoder writes it: under its own name where it has one (rule R62). -/
def Instr.named : Instr → Instr
  | .jmp baseR => decodeJmp baseR
  | .trap v => decodeTrap v
  | i => i

theorem decodeTrap_of_not_routine {v : BitVec 8} (h : trapIsNotRoutine v = true) :
    decodeTrap v = .trap v := by
  unfold decodeTrap
  repeat rw [if_neg (by rintro rfl; revert h; decide)]

/-- The well-formed instructions are those the decoder writes as they are (log entry 18). -/
theorem named_of_wellFormed {i : Instr} (h : WellFormed i = true) : i.named = i := by
  cases i with
  | jmp baseR => exact if_neg (by simpa [WellFormed, jmpIsNotRet] using h)
  | trap v => exact decodeTrap_of_not_routine h
  | _ => rfl

/-- The instructions that are other names for words of JMP and TRAP (rule R62). -/
def aliasInstrs : List Instr := [.ret, .getc, .out, .puts, .inp, .putsp, .halt]

theorem decodeJmp_alias_or_eq (b : Reg) : decodeJmp b ∈ aliasInstrs ∨ decodeJmp b = .jmp b := by
  unfold decodeJmp
  split_ifs
  · exact .inl (by decide)
  · exact .inr rfl

theorem decodeTrap_alias_or_eq (v : BitVec 8) :
    decodeTrap v ∈ aliasInstrs ∨ decodeTrap v = .trap v := by
  unfold decodeTrap
  split_ifs
  case neg => exact .inr rfl
  all_goals exact .inl (by decide)

theorem wellFormed_of_mem_aliasInstrs {i : Instr} (hi : i ∈ aliasInstrs) : WellFormed i = true := by
  revert i
  decide

theorem wellFormed_decodeJmp (b : Reg) : WellFormed (decodeJmp b) = true := by
  unfold decodeJmp
  split_ifs with h
  · rfl
  · simpa [WellFormed, jmpIsNotRet] using h

theorem wellFormed_decodeTrap (v : BitVec 8) : WellFormed (decodeTrap v) = true := by
  obtain halias | htrap := decodeTrap_alias_or_eq v
  · exact wellFormed_of_mem_aliasInstrs halias
  · rw [htrap]
    exact trapIsNotRoutine_of_decodeTrap htrap

/-- A function that agrees on the two names of every word does not see which one is written. -/
theorem apply_named {α : Type} {f : Instr → α} (hret : f .ret = f (.jmp .r7))
    (hgetc : f .getc = f (.trap 0x20)) (hout : f .out = f (.trap 0x21))
    (hputs : f .puts = f (.trap 0x22)) (hin : f .inp = f (.trap 0x23))
    (hputsp : f .putsp = f (.trap 0x24)) (hhalt : f .halt = f (.trap 0x25)) (i : Instr) :
    f i.named = f i := by
  cases i with
  | jmp b =>
    show f (decodeJmp b) = _
    unfold decodeJmp
    split_ifs with h
    · rw [h, hret]
    · rfl
  | trap v =>
    show f (decodeTrap v) = _
    unfold decodeTrap
    split_ifs with h1 h2 h3 h4 h5 h6
    · rw [h1]; exact hgetc
    · rw [h2]; exact hout
    · rw [h3]; exact hputs
    · rw [h4]; exact hin
    · rw [h5]; exact hputsp
    · rw [h6]; exact hhalt
    · rfl
  | _ => rfl

/-! ### The bits a format ignores -/

/-- The bits that an instruction's format ignores (rule R59), in the encoder's layouts. -/
def formatIgnores : Instr → Word
  | .addReg _ _ _ => packRegReg 0 0 0 (0b011#3 ++ 0#3)
  | .andReg _ _ _ => packRegReg 0 0 0 (0b011#3 ++ 0#3)
  | .not _ _ => packRegReg 0 0 0 0b111111
  | .jmp _ => packRegReg 0 0b111 0 0b111111
  | .ret => packRegReg 0 0b111 0 0b111111
  | .jsrr _ => packRegReg 0 0b011 0 0b111111
  | .trap _ => packVect8 0 0b1111 0
  | .getc => packVect8 0 0b1111 0
  | .out => packVect8 0 0b1111 0
  | .puts => packVect8 0 0b1111 0
  | .inp => packVect8 0 0b1111 0
  | .putsp => packVect8 0 0b1111 0
  | .halt => packVect8 0 0b1111 0
  | .rti => packVect8 0 0b1111 0xFF
  | .res => packVect8 0 0b1111 0xFF
  | _ => 0

theorem encode_named (i : Instr) : encode i.named = encode i :=
  apply_named rfl rfl rfl rfl rfl rfl rfl i

theorem formatIgnores_named (i : Instr) : formatIgnores i.named = formatIgnores i :=
  apply_named rfl rfl rfl rfl rfl rfl rfl i

theorem encode_decodeJmp (b : Reg) : encode (decodeJmp b) = packRegReg 0xC 0 b.toBits 0 :=
  encode_named (.jmp b)

theorem encode_decodeTrap (v : BitVec 8) : encode (decodeTrap v) = packVect8 0xF 0 v :=
  encode_named (.trap v)

theorem formatIgnores_decodeJmp (b : Reg) :
    formatIgnores (decodeJmp b) = packRegReg 0 0b111 0 0b111111 := formatIgnores_named (.jmp b)

theorem formatIgnores_decodeTrap (v : BitVec 8) :
    formatIgnores (decodeTrap v) = packVect8 0 0b1111 0 := formatIgnores_named (.trap v)

/-- What a word's format ignores is what the format of its instruction ignores. -/
theorem ignoredBits_eq_formatIgnores (w : Word) : ignoredBits w = formatIgnores (decode w) := by
  unfold ignoredBits
  split
  case h_1 hop =>
    cases hm : Field.immMode w
    · rw [decode_of_addReg_format hop hm]; rfl
    · rw [decode_of_addImm_format hop hm]; rfl
  case h_2 hop =>
    cases hm : Field.immMode w
    · rw [decode_of_andReg_format hop hm]; rfl
    · rw [decode_of_andImm_format hop hm]; rfl
  case h_3 hop => rw [decode_of_not_opcode hop]; rfl
  case h_4 hop => rw [decode_of_jmp_opcode hop, formatIgnores_decodeJmp]; rfl
  case h_5 hop =>
    cases hm : Field.longMode w
    · rw [decode_of_jsrr_format hop hm]; rfl
    · rw [decode_of_jsr_format hop hm]; rfl
  case h_6 hop => rw [decode_of_trap_opcode hop, formatIgnores_decodeTrap]; rfl
  case h_7 hop => rw [decode_of_rti_opcode hop]; rfl
  case h_8 hop => rw [decode_of_res_opcode hop]; rfl
  case h_9 =>
    have hop := opcodeOf_decode w
    cases hi : decode w with
    | addReg | andReg | not | jmp | ret | jsrr | trap | getc | out | puts | inp | putsp | halt | rti
    | res =>
      rw [hi] at hop
      exact absurd hop.symm ‹_›
    | _ => rfl

/-! ### Which words decode to an instruction -/

theorem opcode_encode (i : Instr) : Field.opcode (encode i) = opcodeOf i := by
  cases i with
  | addReg | addImm | andReg | andImm | not | jmp | ret | jsrr | ldr | str =>
    exact packRegReg_opcode ..
  | br | ld | ldi | lea | st | sti => exact packOffset9_opcode ..
  | jsr => exact packOffset11_opcode ..
  | trap | getc | out | puts | inp | putsp | halt | rti | res => exact packVect8_opcode ..

/-- No format ignores its opcode. -/
theorem opcode_formatIgnores (i : Instr) : Field.opcode (formatIgnores i) = 0 := by
  cases i with
  | addReg | andReg | not | jmp | ret | jsrr => exact packRegReg_opcode ..
  | trap | getc | out | puts | inp | putsp | halt | rti | res => exact packVect8_opcode ..
  | _ => exact (rfl : Field.opcode 0 = 0)

/-- A word that agrees with an instruction's encoding outside the bits its format ignores decodes to
that instruction. -/
theorem decode_of_sameBitsBut {i : Instr} {w : Word}
    (h : SameBitsBut (formatIgnores i) w (encode i)) : decode w = i.named := by
  have hop : Field.opcode w = opcodeOf i :=
    (h.opcode (opcode_formatIgnores i)).trans (opcode_encode i)
  cases i with
  | addReg dr sr1 sr2 =>
    rw [formatIgnores, encode] at h
    have hmode : Field.immMode w = false := by rw [h.immMode rfl]; simp
    rw [decode_of_addReg_format hop hmode, h.reg11 rfl, h.reg8 rfl, h.reg2 rfl]
    simp [Instr.named]
  | andReg dr sr1 sr2 =>
    rw [formatIgnores, encode] at h
    have hmode : Field.immMode w = false := by rw [h.immMode rfl]; simp
    rw [decode_of_andReg_format hop hmode, h.reg11 rfl, h.reg8 rfl, h.reg2 rfl]
    simp [Instr.named]
  | not dr sr =>
    rw [formatIgnores, encode] at h
    rw [decode_of_not_opcode hop, h.reg11 rfl, h.reg8 rfl]
    simp [Instr.named]
  | jmp baseR =>
    rw [formatIgnores, encode] at h
    rw [decode_of_jmp_opcode hop, h.reg8 rfl]
    simp [Instr.named]
  | ret =>
    rw [decode_of_jmp_opcode hop, h.reg8 rfl, encode, packRegReg_reg8]
    rfl
  | jsrr baseR =>
    rw [formatIgnores, encode] at h
    have hmode : Field.longMode w = false := by rw [h.longMode rfl]; simp
    rw [decode_of_jsrr_format hop hmode, h.reg8 rfl]
    simp [Instr.named]
  | trap | getc | out | puts | inp | putsp | halt =>
    rw [formatIgnores, encode] at h
    rw [decode_of_trap_opcode hop, h.vect8 rfl, packVect8_vect8]
    rfl
  | rti => exact decode_of_rti_opcode hop
  | res => exact decode_of_res_opcode hop
  | addImm =>
    obtain rfl := h.eq_of_zero
    rw [decode_of_addImm_format hop (by simp [encode])]
    simp [encode, Instr.named]
  | andImm =>
    obtain rfl := h.eq_of_zero
    rw [decode_of_andImm_format hop (by simp [encode])]
    simp [encode, Instr.named]
  | jsr =>
    obtain rfl := h.eq_of_zero
    rw [decode_of_jsr_format hop (by simp [encode])]
    simp [encode, Instr.named]
  | br => rw [decode_of_br_opcode hop, h.eq_of_zero]; simp [encode, Instr.named]
  | ld => rw [decode_of_ld_opcode hop, h.eq_of_zero]; simp [encode, Instr.named]
  | ldi => rw [decode_of_ldi_opcode hop, h.eq_of_zero]; simp [encode, Instr.named]
  | ldr => rw [decode_of_ldr_opcode hop, h.eq_of_zero]; simp [encode, Instr.named]
  | lea => rw [decode_of_lea_opcode hop, h.eq_of_zero]; simp [encode, Instr.named]
  | st => rw [decode_of_st_opcode hop, h.eq_of_zero]; simp [encode, Instr.named]
  | sti => rw [decode_of_sti_opcode hop, h.eq_of_zero]; simp [encode, Instr.named]
  | str => rw [decode_of_str_opcode hop, h.eq_of_zero]; simp [encode, Instr.named]

theorem decode_encode (i : Instr) : decode (encode i) = i.named :=
  decode_of_sameBitsBut (SameBitsBut.refl _ _)

theorem wellFormed_decode (w : Word) : WellFormed (decode w) = true := by
  unfold decode
  split
  case h_2 | h_5 | h_6 => split_ifs <;> rfl
  case h_13 => exact wellFormed_decodeJmp _
  case h_16 => exact wellFormed_decodeTrap _
  all_goals rfl

/-- The low field of an immediate form, as the encoder writes it. -/
theorem offset6_of_immMode {w : Word} (h : Field.immMode w = true) :
    Field.offset6 w = 0b1#1 ++ Field.imm5 w := by
  rw [← offset6_fields_imm, h]
  rfl

/-- The low field of a register form, as the encoder writes it but for bits 4 and 3. -/
theorem offset6_of_regMode {w : Word} (h : Field.immMode w = false) :
    SameBitsBut (0b011#3 ++ 0#3) (Field.offset6 w) (0b000#3 ++ (Field.reg2 w).toBits) := by
  rw [← offset6_fields_reg, h]
  exact .append (.append (.refl 0#1 0#1) (.allOnes _ 0#2)) (.refl _ _)

/-- Bits 11 to 9 of JSRR, as the encoder writes them but for bits 10 and 9. -/
theorem nzp_of_baseMode {w : Word} (h : Field.longMode w = false) :
    SameBitsBut 0b011 (Field.nzp w) 0 := by
  rw [← nzp_fields, h]
  exact .append (.refl 0#1 0#1) (.allOnes _ 0#2)

/-- A word agrees with the encoding of its instruction outside the bits its format ignores. -/
theorem sameBitsBut_encode_decode (w : Word) :
    SameBitsBut (formatIgnores (decode w)) w (encode (decode w)) := by
  unfold decode
  split
  case h_1 hop => exact .of_eq (eq_packOffset9 hop)
  case h_3 hop | h_4 hop | h_11 hop | h_12 hop | h_15 hop =>
    rw [encode, toBits_reg11]
    exact .of_eq (eq_packOffset9 hop)
  case h_2 hop | h_6 hop =>
    split_ifs with hmode
    · rw [encode, toBits_reg11, ← offset6_of_immMode hmode]
      exact .of_eq (eq_packRegReg hop)
    · rw [encode, toBits_reg11]
      exact .trans (.of_eq (eq_packRegReg hop)) (.packRegReg (.refl _ _) (.refl _ _) (.refl _ _)
        (offset6_of_regMode (Bool.eq_false_iff.2 hmode)))
  case h_5 hop =>
    split_ifs with hmode
    · refine .of_eq ((eq_packOffset11 hop).trans ?_)
      rw [hmode]
      rfl
    · exact .trans (.of_eq (eq_packRegReg hop)) (.packRegReg (.refl _ _)
        (nzp_of_baseMode (Bool.eq_false_iff.2 hmode)) (.refl _ _) (.allOnes _ _))
  case h_7 hop | h_8 hop =>
    rw [encode, toBits_reg11]
    exact .of_eq (eq_packRegReg hop)
  case h_9 hop | h_14 hop =>
    exact .trans (.of_eq (eq_packVect8 hop)) (.packVect8 (.refl _ _) (.allOnes _ _) (.allOnes _ _))
  case h_10 hop =>
    rw [encode, toBits_reg11]
    exact .trans (.of_eq (eq_packRegReg hop))
      (.packRegReg (.refl _ _) (.refl _ _) (.refl _ _) (.allOnes _ _))
  case h_13 hop =>
    rw [formatIgnores_decodeJmp, encode_decodeJmp]
    exact .trans (.of_eq (eq_packRegReg hop))
      (.packRegReg (.refl _ _) (.allOnes _ _) (.refl _ _) (.allOnes _ _))
  case h_16 =>
    have hop : Field.opcode w = 0xF#4 := by
      generalize Field.opcode w = k at *
      revert k
      decide
    rw [formatIgnores_decodeTrap, encode_decodeTrap]
    exact .trans (.of_eq (eq_packVect8 hop)) (.packVect8 (.refl _ _) (.allOnes _ _) (.refl _ _))

/-- The ignored bits of a word have no say in what it decodes to (rule R59). -/
theorem decode_congr {v w : Word} (h : SameBitsBut (ignoredBits w) v w) : decode v = decode w := by
  rw [ignoredBits_eq_formatIgnores] at h
  rw [decode_of_sameBitsBut (h.trans (sameBitsBut_encode_decode w)),
    named_of_wellFormed (wellFormed_decode w)]

theorem ignoredBits_encode (i : Instr) : ignoredBits (encode i) = formatIgnores i := by
  rw [ignoredBits_eq_formatIgnores, decode_encode, formatIgnores_named]

theorem packRegReg_and (op op' : BitVec 4) (a a' b b' : BitVec 3) (low low' : BitVec 6) :
    packRegReg op a b low &&& packRegReg op' a' b' low' =
      packRegReg (op &&& op') (a &&& a') (b &&& b') (low &&& low') := by
  refine BitVec.and_append.trans (congrArg (· ++ _) ?_)
  rw [BitVec.and_append, BitVec.and_append]

theorem packVect8_and (op op' i i' : BitVec 4) (v v' : BitVec 8) :
    packVect8 op i v &&& packVect8 op' i' v' = packVect8 (op &&& op') (i &&& i') (v &&& v') := by
  refine BitVec.and_append.trans (congrArg (· ++ _) ?_)
  rw [BitVec.and_append]

/-- The encoder writes 111111 in the bits that NOT ignores. -/
theorem encode_not_and_formatIgnores (dr sr : Reg) :
    encode (.not dr sr) &&& formatIgnores (.not dr sr) = 0x003F := by
  calc
    _ = packRegReg 0 0 0 0b111111 := by simp [encode, formatIgnores, packRegReg_and]
    _ = 0x003F := rfl

/-- The encoder writes 0 in the bits that any other format ignores. -/
theorem encode_and_formatIgnores {i : Instr} (hi : ∀ dr sr, i ≠ .not dr sr) :
    encode i &&& formatIgnores i = 0 := by
  have hreg : packRegReg 0 0 0 0 = 0 := rfl
  have hvect : packVect8 0 0 0 = 0 := rfl
  cases i with
  | not dr sr => exact absurd rfl (hi dr sr)
  | addReg | andReg =>
    rw [encode, formatIgnores, packRegReg_and, BitVec.and_append]
    simpa using hreg
  | jmp | ret | jsrr => simpa [encode, formatIgnores, packRegReg_and] using hreg
  | trap | getc | out | puts | inp | putsp | halt | rti | res =>
    simpa [encode, formatIgnores, packVect8_and] using hvect
  | _ => exact BitVec.and_zero

/-! ### The opcode table -/

theorem covers_iff_sameBitsBut {r : TableRow} (hr : r.value &&& r.mask = r.value) (w : Word) :
    r.covers w = true ↔ SameBitsBut (~~~ r.mask) w r.value := by
  rw [TableRow.covers, SameBitsBut, BitVec.not_not, hr, beq_iff_eq]

/-- Bits outside a row's mask do not matter to the row. -/
theorem covers_congr {r : TableRow} {m v w : Word} (hm : r.mask &&& m = 0)
    (h : SameBitsBut m v w) : r.covers v = r.covers w := by
  have hmask : ~~~ m &&& r.mask = r.mask := by
    refine BitVec.eq_of_getLsbD_eq fun i hi => ?_
    simpa [hi] using congrArg (·.getLsbD i) hm
  rw [TableRow.covers, TableRow.covers, ← hmask, ← BitVec.and_assoc, ← BitVec.and_assoc, h]

/-! #### The rows of second names -/

/-- The row of an instruction all of whose words differ in ignored bits only. -/
def rowOf (i : Instr) : TableRow := ⟨~~~ formatIgnores i, encode i, i.mnemonic⟩

theorem aliasRows_eq : aliasRows = aliasInstrs.map rowOf := by decide

/-- A row with a name of its own covers the words that decode to that name. -/
theorem rowOf_covers {i : Instr} (hi : i ∈ aliasInstrs) (w : Word) :
    (rowOf i).covers w = true ↔ decode w = i := by
  have hvalue : (rowOf i).value &&& (rowOf i).mask = (rowOf i).value := by
    revert i
    decide
  rw [covers_iff_sameBitsBut hvalue]
  simp only [rowOf, BitVec.not_not]
  constructor
  · intro h
    rw [decode_of_sameBitsBut h, named_of_wellFormed (wellFormed_of_mem_aliasInstrs hi)]
  · rintro rfl
    exact sameBitsBut_encode_decode w

/-! #### The core rows -/

/-- The bits of a word that the core rows look at: the opcode and the two mode flags (rule R55). -/
def modeWord (op : BitVec 4) (long imm : Bool) : Word :=
  packRegReg op (BitVec.ofBool long ++ 0#2) 0 (BitVec.ofBool imm ++ 0#5)

theorem sameBitsBut_modeWord (w : Word) :
    SameBitsBut (packRegReg 0 0b011 0b111 0b011111) w
      (modeWord (Field.opcode w) (Field.longMode w) (Field.immMode w)) := by
  refine .trans (.of_eq (eq_packRegReg rfl)) (.packRegReg (.refl _ _) ?_ (.allOnes _ _) ?_)
  · rw [← nzp_fields]
    exact .append (.refl 0#1 _) (.allOnes _ _)
  · rw [← offset6_fields_imm]
    exact .append (.refl 0#1 _) (.allOnes _ _)

theorem coreRow_covers {r : TableRow} (hr : r ∈ coreRows) (w : Word) :
    r.covers w = r.covers (modeWord (Field.opcode w) (Field.longMode w) (Field.immMode w)) := by
  refine covers_congr ?_ (sameBitsBut_modeWord w)
  revert r
  decide

theorem one_coreRow_covers_modeWord (op : BitVec 4) (long imm : Bool) :
    (coreRows.filter (·.covers (modeWord op long imm))).length = 1 := by
  revert op long imm
  decide

theorem one_coreRow_covers (w : Word) : (coreRows.filter (·.covers w)).length = 1 := by
  rw [List.filter_congr fun r hr => coreRow_covers hr w]
  exact one_coreRow_covers_modeWord _ _ _

theorem sameBitsBut_of_coreRow {r : TableRow} (hr : r ∈ coreRows) {w : Word}
    (hw : r.covers w = true) : SameBitsBut (~~~ r.mask) w r.value := by
  have hvalue : ∀ r ∈ coreRows, r.value &&& r.mask = r.value := by decide
  exact (covers_iff_sameBitsBut (hvalue r hr) w).1 hw

theorem mnemonic_decodeJmp {b : Reg} (h : decodeJmp b ∉ aliasInstrs) :
    (decodeJmp b).mnemonic = "JMP" := by
  rw [(decodeJmp_alias_or_eq b).resolve_left h]
  rfl

theorem mnemonic_decodeTrap {v : BitVec 8} (h : decodeTrap v ∉ aliasInstrs) :
    (decodeTrap v).mnemonic = "TRAP" := by
  rw [(decodeTrap_alias_or_eq v).resolve_left h]
  rfl

/-- A word that has no second name carries the mnemonic of its core row. -/
theorem mnemonic_of_coreRow {r : TableRow} (hr : r ∈ coreRows) {w : Word}
    (hw : r.covers w = true) (ha : decode w ∉ aliasInstrs) : (decode w).mnemonic = r.mnemonic := by
  have h := sameBitsBut_of_coreRow hr hw
  simp only [coreRows, List.mem_cons, List.not_mem_nil, or_false] at hr
  rcases hr with rfl | rfl | rfl | rfl | rfl | rfl | rfl | rfl | rfl | rfl | rfl | rfl | rfl | rfl |
    rfl | rfl | rfl | rfl | rfl
  · rw [decode_of_addReg_format (h.opcode rfl) (h.immMode rfl)]; rfl
  · rw [decode_of_addImm_format (h.opcode rfl) (h.immMode rfl)]; rfl
  · rw [decode_of_andReg_format (h.opcode rfl) (h.immMode rfl)]; rfl
  · rw [decode_of_andImm_format (h.opcode rfl) (h.immMode rfl)]; rfl
  · rw [decode_of_not_opcode (h.opcode rfl)]; rfl
  · rw [decode_of_br_opcode (h.opcode rfl)]; rfl
  · rw [decode_of_jmp_opcode (h.opcode rfl)] at ha ⊢
    exact mnemonic_decodeJmp ha
  · rw [decode_of_jsr_format (h.opcode rfl) (h.longMode rfl)]; rfl
  · rw [decode_of_jsrr_format (h.opcode rfl) (h.longMode rfl)]; rfl
  · rw [decode_of_ld_opcode (h.opcode rfl)]; rfl
  · rw [decode_of_ldi_opcode (h.opcode rfl)]; rfl
  · rw [decode_of_ldr_opcode (h.opcode rfl)]; rfl
  · rw [decode_of_lea_opcode (h.opcode rfl)]; rfl
  · rw [decode_of_st_opcode (h.opcode rfl)]; rfl
  · rw [decode_of_sti_opcode (h.opcode rfl)]; rfl
  · rw [decode_of_str_opcode (h.opcode rfl)]; rfl
  · rw [decode_of_trap_opcode (h.opcode rfl)] at ha ⊢
    exact mnemonic_decodeTrap ha
  · rw [decode_of_rti_opcode (h.opcode rfl)]; rfl
  · rw [decode_of_res_opcode (h.opcode rfl)]; rfl

/-! #### The first row that covers a word -/

theorem aliasRow_mnemonic {r : TableRow} (hr : r ∈ aliasRows) {w : Word} (hw : r.covers w = true) :
    r.mnemonic = (decode w).mnemonic := by
  rw [aliasRows_eq, List.mem_map] at hr
  obtain ⟨i, hi, rfl⟩ := hr
  rw [(rowOf_covers hi w).1 hw]
  rfl

theorem not_alias_of_no_aliasRow {w : Word} (h : ∀ r ∈ aliasRows, ¬ r.covers w = true) :
    decode w ∉ aliasInstrs := by
  intro hi
  refine h (rowOf (decode w)) ?_ ((rowOf_covers hi w).2 rfl)
  rw [aliasRows_eq]
  exact List.mem_map_of_mem hi

theorem exists_coreRow_covers (w : Word) : ∃ r ∈ coreRows, r.covers w = true := by
  obtain ⟨r, hr⟩ := List.length_pos_iff_exists_mem.1 (by rw [one_coreRow_covers w]; decide)
  exact ⟨r, List.mem_filter.1 hr⟩

end Sys2Proof

namespace Sys2Proof.Proofs

open Sys2Proof.Machine

/-- Settles O2: of the words that decode to an instruction, its encoding is one. -/
theorem decodeEncodeRoundTrip : Obligations.DecodeEncodeRoundTrip := by
  intro i hi
  rw [decode_encode, named_of_wellFormed hi]

/-- Settles O6: the overwritten word agrees with the first one outside the ignored bits, and the
encoder's own ignored bits are those of its layouts. -/
theorem ignoredBitsDoNotMatter : Obligations.IgnoredBitsDoNotMatter := by
  refine ⟨fun w x => decode_congr (.overwrite _ w x), fun dr sr => ?_, fun i hi => ?_⟩
  · rw [ignoredBits_encode, encode_not_and_formatIgnores]
  · rw [ignoredBits_encode, encode_and_formatIgnores hi]

/-- Settles O1: each clause decodes one word. -/
theorem decodesTheSpecsWords : Obligations.DecodesTheSpecsWords := by
  unfold Obligations.DecodesTheSpecsWords
  decide

/-- Settles O3: a word and its instruction's encoding agree outside the bits the format ignores. -/
theorem everyWordDecodesWellFormed : Obligations.EveryWordDecodesWellFormed := by
  intro w
  rw [ignoredBits_eq_formatIgnores]
  exact ⟨wellFormed_decode w, (sameBitsBut_encode_decode w).symm⟩

/-- Settles O4: the row of a second name covers a word exactly where the word decodes to that name;
any other word is covered by a core row, which carries its mnemonic. -/
theorem decoderFollowsOpcodeTable : Obligations.DecoderFollowsOpcodeTable := by
  intro w
  rw [List.find?_append]
  cases halias : aliasRows.find? (·.covers w) with
  | some r =>
    have hw := List.find?_some (p := (TableRow.covers · w)) halias
    exact congrArg some (aliasRow_mnemonic (List.mem_of_find?_eq_some halias) hw)
  | none =>
    have hnone := not_alias_of_no_aliasRow (List.find?_eq_none.1 halias)
    cases hcore : coreRows.find? (·.covers w) with
    | some r =>
      have hw := List.find?_some (p := (TableRow.covers · w)) hcore
      exact congrArg some (mnemonic_of_coreRow (List.mem_of_find?_eq_some hcore) hw hnone).symm
    | none =>
      obtain ⟨r, hr, hw⟩ := exists_coreRow_covers w
      exact absurd hw (List.find?_eq_none.1 hcore r hr)

/-- Settles O5: the core rows look at the opcode and the two mode flags alone, and each of their 64
values has one row. -/
theorem everyWordHasOneCoreRow : Obligations.EveryWordHasOneCoreRow := one_coreRow_covers

/-- Settles O56: both names of a word call the same meaning, and have the same layout. -/
theorem namesRunAsTheirExpansions : Obligations.NamesRunAsTheirExpansions :=
  ⟨fun _ => ⟨rfl, rfl, rfl, rfl, rfl, rfl, rfl⟩, rfl, rfl, rfl, rfl, rfl, rfl, rfl⟩

end Sys2Proof.Proofs
end

section
/-! PROOFS. The statements of 40_operate.md: ADD, AND and NOT. Each writes its result to DR with
`writeResult`, so `wroteResult_writeResult` gives the flags and the frame of all of them at once. -/

namespace Sys2Proof

/-! ### The words of ADD and AND, in both forms -/

/-- Opcode 0001 is ADD, its form told by bit 5 (rule R56). -/
theorem decode_of_add_opcode {w : Word} (h : Field.opcode w = 0x1#4) :
    decode w = if Field.immMode w then .addImm (Field.reg11 w) (Field.reg8 w) (Field.imm5 w)
      else .addReg (Field.reg11 w) (Field.reg8 w) (Field.reg2 w) := by
  split
  · next hm => exact decode_of_addImm_format h hm
  · next hm => exact decode_of_addReg_format h (Bool.eq_false_of_not_eq_true hm)

/-- Opcode 0101 is AND, its form told by bit 5 (rule R56). -/
theorem decode_of_and_opcode {w : Word} (h : Field.opcode w = 0x5#4) :
    decode w = if Field.immMode w then .andImm (Field.reg11 w) (Field.reg8 w) (Field.imm5 w)
      else .andReg (Field.reg11 w) (Field.reg8 w) (Field.reg2 w) := by
  split
  · next hm => exact decode_of_andImm_format h hm
  · next hm => exact decode_of_andReg_format h (Bool.eq_false_of_not_eq_true hm)

end Sys2Proof

namespace Sys2Proof.Machine

/-! ### Writing a result -/

/-- `writeResult` changes DR and the flags, and nothing else. -/
theorem wroteResult_writeResult (s : State) (dr : Reg) (v : Word) :
    WroteResult s (s.writeResult dr v) dr v := by
  have hother : SameRegsBut [dr] s (s.writeResult dr v) := fun _ hr =>
    State.reg_writeResult_other (fun he => hr (List.mem_singleton.2 he)) s v
  exact ⟨State.reg_writeResult_same s dr v, hother, rfl, rfl, fun _ _ => rfl, ⟨rfl, rfl⟩,
    rfl, rfl, rfl, rfl, rfl⟩

/-- An instruction whose meaning is one `writeResult` completes with that result. -/
theorem exists_wroteResult_of_exec {i : Instr} {s : State} {dr : Reg} {v : Word}
    (h : exec i s = .next (s.writeResult dr v)) :
    ∃ t, exec i s = .next t ∧ WroteResult s t dr v :=
  ⟨_, h, wroteResult_writeResult s dr v⟩

/-! ### The meanings of ADD, AND and NOT -/

section exec
variable (dr sr sr1 sr2 : Reg) (imm5 : BitVec 5) (s : State)

theorem exec_addReg :
    exec (.addReg dr sr1 sr2) s = .next (s.writeResult dr (s.reg sr1 + s.reg sr2)) := rfl

theorem exec_addImm :
    exec (.addImm dr sr1 imm5) s =
      .next (s.writeResult dr (s.reg sr1 + imm5.signExtend 16)) := by
  rw [← sext_eq_signExtend (by decide)]
  rfl

theorem exec_andReg :
    exec (.andReg dr sr1 sr2) s = .next (s.writeResult dr (s.reg sr1 &&& s.reg sr2)) := rfl

theorem exec_andImm :
    exec (.andImm dr sr1 imm5) s =
      .next (s.writeResult dr (s.reg sr1 &&& imm5.signExtend 16)) := by
  rw [← sext_eq_signExtend (by decide)]
  rfl

theorem exec_not : exec (.not dr sr) s = .next (s.writeResult dr (~~~ s.reg sr)) := rfl

/-- Rule R66: the second instruction finds the complement in DR, and a complement plus one is the
two's complement negation. -/
theorem exec_addOne_after_not :
    exec (.addImm dr dr 1) (s.writeResult dr (~~~ s.reg sr)) =
      .next ((s.writeResult dr (~~~ s.reg sr)).writeResult dr (-s.reg sr)) := by
  have hone : (1 : BitVec 5).signExtend 16 = 1#16 := by decide
  rw [exec_addImm, State.reg_writeResult_same, hone, ← BitVec.neg_eq_not_add]

end exec

end Sys2Proof.Machine

namespace Sys2Proof.Proofs

open Sys2Proof.Machine

/-- Settles O34: opcode 0001 by its mode bit, and each form writes the sum. -/
theorem addAddsModulo65536 : Obligations.AddAddsModulo65536 :=
  ⟨fun _ => decode_of_add_opcode,
    fun dr sr1 sr2 s => exists_wroteResult_of_exec (exec_addReg dr sr1 sr2 s),
    fun dr sr1 imm5 s => exists_wroteResult_of_exec (exec_addImm dr sr1 imm5 s)⟩

/-- Settles O35: opcode 0101 by its mode bit, and each form writes the bitwise conjunction. -/
theorem andIsBitwise : Obligations.AndIsBitwise :=
  ⟨fun _ => decode_of_and_opcode,
    fun dr sr1 sr2 s => exists_wroteResult_of_exec (exec_andReg dr sr1 sr2 s),
    fun dr sr1 imm5 s => exists_wroteResult_of_exec (exec_andImm dr sr1 imm5 s)⟩

/-- Settles O36: NOT writes the complement, which is the all-ones word minus the value. -/
theorem notComplements : Obligations.NotComplements := by
  refine ⟨fun _ => decode_of_not_opcode, fun dr sr s =>
    ⟨_, exec_not dr sr s, wroteResult_writeResult s dr _, ?_⟩⟩
  rw [State.reg_writeResult_same]
  exact (BitVec.allOnes_sub_eq_not (s.reg sr)).symm

/-- Settles O37: DR ends with the negation, whose number is the value's distance to 65536. -/
theorem notThenAddOneNegates : Obligations.NotThenAddOneNegates := by
  intro dr sr s
  refine ⟨_, _, exec_not dr sr s, exec_addOne_after_not dr sr s, ?_⟩
  rw [State.reg_writeResult_same]
  refine ⟨BitVec.toNat_neg _, fun h => ?_⟩
  rw [h]
  decide

end Sys2Proof.Proofs
end

section
/-! PROOFS. The statements of 41_data_movement.md: the addressing modes, LD, LDI, LDR, LEA, ST, STI
and STR. A load writes its result where its reads have left the machine, and no read changes a
register, PC, the status or the output (`ReadsTo.keeps`); so `loadedResult_of_readsTo` serves the
direct loads and LDI alike. -/

namespace Sys2Proof.Machine

/-! ### Effective addresses -/

section address
variable (s : State) (off : BitVec 9)

theorem State.pcOffset9_eq : s.pcOffset9 off = s.pc + off.signExtend 16 :=
  congrArg (s.pc + ·) (sext_eq_signExtend (by decide) off)

theorem State.baseOffset6_eq (b : Reg) (off6 : BitVec 6) :
    s.baseOffset6 b off6 = s.reg b + off6.signExtend 16 :=
  congrArg (s.reg b + ·) (sext_eq_signExtend (by decide) off6)

theorem State.pointer_eq : s.pointer off = s.memRead (s.pc + off.signExtend 16) :=
  congrArg s.memRead (s.pcOffset9_eq off)

theorem State.readsTo_pointer : ReadsTo s (s.pointer off).2 := ReadsTo.refl.memRead _

variable {s off}

theorem State.pointer_plain (h : s.pc + off.signExtend 16 ≠ Config.kbsr) :
    s.pointer off = (s.cell (s.pc + off.signExtend 16), s) := by
  rw [State.pointer_eq, State.memRead_plain h]

end address

/-! ### Loads and stores -/

theorem State.loadInto_plain {ea : Word} (h : ea ≠ Config.kbsr) (s : State) (dr : Reg) :
    s.loadInto dr ea = s.writeResult dr (s.cell ea) := by
  rw [State.loadInto, State.memRead_plain h]

/-- A load may follow other reads: they leave what its frame speaks of as it was. -/
theorem loadedResult_of_readsTo {s u : State} (h : ReadsTo s u) (dr : Reg) (ea : Word) :
    LoadedResult s (u.loadInto dr ea) dr (u.memRead ea) := by
  obtain ⟨hregs, hpc, -, hstatus, hout⟩ := (h.memRead ea).keeps
  obtain ⟨hdr, hother, hcond, hpc', hcells, ⟨hstatus', hout'⟩, hhost⟩ :=
    wroteResult_writeResult (u.memRead ea).2 dr (u.memRead ea).1
  exact ⟨hdr, fun r hr => (hother r hr).trans (State.reg_congr hregs r), hcond, hpc'.trans hpc,
    hcells, ⟨hstatus'.trans hstatus, hout'.trans hout⟩, hhost⟩

/-- An instruction whose meaning is one load completes with the word it reads, which is the
stored one at every address but 0xFE00. -/
theorem exists_loadedResult_of_exec {i : Instr} {s : State} {dr : Reg} {ea : Word}
    (h : exec i s = .next (s.loadInto dr ea)) :
    ∃ t, exec i s = .next t ∧ LoadedResult s t dr (s.memRead ea) ∧
      (ea ≠ Config.kbsr → WroteResult s t dr (s.cell ea)) := by
  refine ⟨_, h, loadedResult_of_readsTo .refl dr ea, fun hea => ?_⟩
  rw [State.loadInto_plain hea]
  exact wroteResult_writeResult s dr (s.cell ea)

theorem wroteCell_setCell (s : State) (a v : Word) : WroteCell s (s.setCell a v) a v := by
  obtain ⟨hwrote, -⟩ := Proofs.storeIsUnconditional
  exact hwrote s a v

/-! ### The meanings of the data movement instructions -/

section exec
variable (dr sr b : Reg) (off : BitVec 9) (off6 : BitVec 6) (s : State)

theorem exec_ld : exec (.ld dr off) s = .next (s.loadInto dr (s.pc + off.signExtend 16)) := by
  rw [← State.pcOffset9_eq]
  rfl

theorem exec_ldi :
    exec (.ldi dr off) s = .next ((s.pointer off).2.loadInto dr (s.pointer off).1) := rfl

theorem exec_ldr :
    exec (.ldr dr b off6) s = .next (s.loadInto dr (s.reg b + off6.signExtend 16)) := by
  rw [← State.baseOffset6_eq]
  rfl

theorem exec_lea : exec (.lea dr off) s = .next (s.writeResult dr (s.pc + off.signExtend 16)) := by
  rw [← State.pcOffset9_eq]
  rfl

theorem exec_st : exec (.st sr off) s = .next (s.setCell (s.pcOffset9 off) (s.reg sr)) := rfl

theorem exec_sti :
    exec (.sti sr off) s = .next ((s.pointer off).2.setCell (s.pointer off).1 (s.reg sr)) := rfl

theorem exec_str :
    exec (.str sr b off6) s = .next (s.setCell (s.baseOffset6 b off6) (s.reg sr)) := rfl

end exec

end Sys2Proof.Machine

namespace Sys2Proof.Proofs

open Sys2Proof.Machine

/-- Settles O15: the model's sign extension is the rule's, and reading the pointer leaves the
registers. -/
theorem addressingModes : Obligations.AddressingModes := by
  refine ⟨State.pcOffset9_eq, fun s off => ⟨s.pointer_eq off, ?_⟩, State.baseOffset6_eq⟩
  obtain ⟨hregs, -⟩ := (s.readsTo_pointer off).keeps
  exact hregs

/-- Settles O42: LD is one load. -/
theorem ldLoadsPcRelative : Obligations.LdLoadsPcRelative :=
  ⟨fun _ => decode_of_ld_opcode,
    fun dr off s => exists_loadedResult_of_exec (exec_ld dr off s)⟩

/-- Settles O43: LDI is a load after the read of the pointer; where neither address is 0xFE00 both
reads are of stored cells. -/
theorem ldiLoadsThroughThePointer : Obligations.LdiLoadsThroughThePointer := by
  refine ⟨fun _ => decode_of_ldi_opcode, fun dr off s =>
    ⟨_, exec_ldi dr off s, ?_, fun hp hd => ?_⟩⟩
  · rw [← State.pointer_eq]
    exact loadedResult_of_readsTo (s.readsTo_pointer off) dr _
  · rw [State.pointer_plain hp, State.loadInto_plain hd]
    exact wroteResult_writeResult s dr _

/-- Settles O44: LDR is one load, from the address its base register gives before DR is written. -/
theorem ldrLoadsBasePlusOffset : Obligations.LdrLoadsBasePlusOffset :=
  ⟨fun _ => decode_of_ldr_opcode,
    fun dr b off s => exists_loadedResult_of_exec (exec_ldr dr b off s)⟩

/-- Settles O45: LEA writes the address itself and reads nothing. -/
theorem leaComputesTheAddressOnly : Obligations.LeaComputesTheAddressOnly :=
  ⟨fun _ => decode_of_lea_opcode,
    fun dr off s => exists_wroteResult_of_exec (exec_lea dr off s)⟩

/-- Settles O46: ST is one store. -/
theorem stStoresPcRelative : Obligations.StStoresPcRelative :=
  ⟨fun _ => decode_of_st_opcode,
    fun sr off s => ⟨_, exec_st sr off s, s.pcOffset9_eq off, wroteCell_setCell s _ _⟩⟩

/-- Settles O47: STI is one store in the state that the read of the pointer leaves, and that read
keeps the registers, the flags, PC, the status and the output. -/
theorem stiStoresThroughThePointer : Obligations.StiStoresThroughThePointer := by
  refine ⟨fun _ => decode_of_sti_opcode, fun sr off s =>
    ⟨_, exec_sti sr off s, s.pointer_eq off, wroteCell_setCell _ _ _, ?_⟩⟩
  obtain ⟨hregs, hpc, hcond, hstatus, hout⟩ := (s.readsTo_pointer off).keeps
  refine ⟨fun r _ => State.reg_congr hregs r, hcond, hpc, ⟨hstatus, hout⟩, fun hp => ?_⟩
  rw [State.pointer_plain hp]
  exact wroteCell_setCell s _ _

/-- Settles O48: STR is one store. -/
theorem strStoresBasePlusOffset : Obligations.StrStoresBasePlusOffset :=
  ⟨fun _ => decode_of_str_opcode,
    fun sr b off s => ⟨_, exec_str sr b off s, s.baseOffset6_eq b off, wroteCell_setCell s _ _⟩⟩

end Sys2Proof.Proofs
end

section
/-! PROOFS. The statements of 42_control.md: BR, JMP, RET, JSR and JSRR. Each sets PC and no flag; JSR
and JSRR first link R7, so `exists_call_of_exec` gives the frame of both. -/

namespace Sys2Proof

/-! ### The words of JMP and RET -/

theorem Reg.ofBits_eq_r7 {k : BitVec 3} : Reg.ofBits k = .r7 ↔ k = 7#3 := by
  constructor
  · intro h
    rw [← Reg.toBits_ofBits k, h]
    rfl
  · rintro rfl
    rfl

/-- RET is told from JMP by the base field (rule R62). -/
theorem decodeJmp_ofBits (k : BitVec 3) :
    decodeJmp (Reg.ofBits k) = if k = 7#3 then .ret else .jmp (Reg.ofBits k) := by
  simp only [decodeJmp, Reg.ofBits_eq_r7]

end Sys2Proof

namespace Sys2Proof.Machine

/-! ### JSR's target, and registers after the link -/

theorem State.pcOffset11_eq (s : State) (off : BitVec 11) :
    s.pcOffset11 off = s.pc + off.signExtend 16 :=
  congrArg (s.pc + ·) (sext_eq_signExtend (by decide) off)

theorem State.reg_setReg (s : State) (i j : Reg) (v : Word) :
    (s.setReg i v).reg j = if j = i then v else s.reg j := by
  split
  · next h => rw [h, State.reg_setReg_same]
  · next h => exact State.reg_setReg_other h s v

/-! ### The mask of BR -/

theorem zero_and_bits (c : Cond) : 0b000 &&& c.bits = 0 := BitVec.zero_and

/-- COND is one-hot (rule R22), so the full mask meets it. -/
theorem allOnes_and_bits_ne_zero (c : Cond) : 0b111 &&& c.bits ≠ 0 := by
  cases c <;> decide

/-! ### The meanings of the control transfers -/

section exec
variable (b : Reg) (s : State)

theorem exec_br (nzp : BitVec 3) (off : BitVec 9) :
    exec (.br nzp off) s = .next
      (if nzp &&& s.cond.bits ≠ 0 then s.setPc (s.pc + off.signExtend 16) else s) := by
  rw [← State.pcOffset9_eq]
  simp only [exec, execBr, brTaken, bne_iff_ne]

theorem exec_jmp : exec (.jmp b) s = .next (s.setPc (s.reg b)) := rfl

theorem exec_ret : exec .ret s = .next (s.setPc (s.reg .r7)) := rfl

theorem exec_jsr (off : BitVec 11) :
    exec (.jsr off) s =
      .next ((s.setReg .r7 s.pc).setPc (s.pc + off.signExtend 16)) := by
  rw [← State.pcOffset11_eq]
  rfl

/-- Rule R78: the base is read after the link is written. -/
theorem exec_jsrr :
    exec (.jsrr b) s =
      .next ((s.setReg .r7 s.pc).setPc (if b = .r7 then s.pc else s.reg b)) := by
  rw [← State.reg_setReg]
  rfl

end exec

/-- An instruction that links R7 and goes to `a` completes, and changes nothing else. -/
theorem exists_call_of_exec {i : Instr} {s : State} {a : Word}
    (h : exec i s = .next ((s.setReg .r7 s.pc).setPc a)) :
    ∃ t, exec i s = .next t ∧ t.reg .r7 = s.pc ∧ t.pc = a ∧ SameRegsBut [.r7] s t ∧
      t.cond = s.cond ∧ SameCellsBut [] s t ∧ SameRun s t ∧ SameHost s t := by
  have hother : SameRegsBut [.r7] s ((s.setReg .r7 s.pc).setPc a) := fun _ hr =>
    State.reg_setReg_other (fun he => hr (List.mem_singleton.2 he)) s s.pc
  exact ⟨_, h, State.reg_setReg_same s .r7 s.pc, rfl, hother, rfl, fun _ _ => rfl, ⟨rfl, rfl⟩,
    rfl, rfl, rfl, rfl, rfl⟩

end Sys2Proof.Machine

namespace Sys2Proof.Proofs

open Sys2Proof.Machine

/-- Settles O38: the mask 000 meets no flag and the mask 111 meets every one. -/
theorem brBranchesOnTheMaskedFlag : Obligations.BrBranchesOnTheMaskedFlag := by
  refine ⟨fun _ => decode_of_br_opcode, fun nzp off s => exec_br s nzp off, fun off s => ⟨?_, ?_⟩⟩
  · rw [exec_br, if_neg (not_not.2 (zero_and_bits s.cond))]
  · rw [exec_br, if_pos (allOnes_and_bits_ne_zero s.cond)]
    rfl

/-- Settles O39: the base field 7 is RET's, and both names set PC to the register. -/
theorem jmpAndRetTakeTheRegister : Obligations.JmpAndRetTakeTheRegister :=
  ⟨fun _ h => (decode_of_jmp_opcode h).trans (decodeJmp_ofBits _), exec_jmp, exec_ret⟩

/-- Settles O40: JSR is a call, to its target relative to PC. -/
theorem jsrLinksAndJumps : Obligations.JsrLinksAndJumps :=
  ⟨fun _ => decode_of_jsr_format, fun off s => exists_call_of_exec (exec_jsr s off)⟩

/-- Settles O41: JSRR is a call, to its base as the link leaves it. -/
theorem jsrrLinksThenReadsTheBase : Obligations.JsrrLinksThenReadsTheBase :=
  ⟨fun _ => decode_of_jsrr_format, fun b s => exists_call_of_exec (exec_jsrr b s)⟩

end Sys2Proof.Proofs
end

section
/-! PROOFS. The statements of 43_trap.md: TRAP and the six routines. `Effect` says what each routine
does to the state; the frame of all of them is proved once from it (`Effect.trapFrame`), so that a
routine's own proof adds only what it reads, writes and stops at. -/

namespace Sys2Proof.Machine

/-! ### Which instructions are traps -/

section traps
variable {i : Instr}

theorem linksR7_of_isTrap (hi : isTrap i) : linksR7 i = true := by
  obtain ⟨v, rfl⟩ | rfl | rfl | rfl | rfl | rfl | rfl := hi <;> rfl

theorem not_changesPc_of_isTrap (hi : isTrap i) : ¬ changesPc i := by
  obtain ⟨v, rfl⟩ | rfl | rfl | rfl | rfl | rfl | rfl := hi <;> simp [changesPc]

theorem flagRegister_of_readsHost (hi : readsHost i) : flagRegister i = some .r0 := by
  obtain rfl | rfl | rfl | rfl := hi <;> rfl

theorem not_readsHost_of_flagRegister (hi : flagRegister i = none) : ¬ readsHost i := fun hreads =>
  absurd (hi.symm.trans (flagRegister_of_readsHost hreads)) (by decide)

end traps

/-! ### What every trap leaves unchanged -/

theorem State.writeString_sameHost (s : State) (r : List Byte × Bool) :
    SameHost s (s.writeString r) := by
  obtain ⟨-, h⟩ | ⟨-, h⟩ := s.writeString_cases r <;> rw [h] <;> exact ⟨rfl, rfl, rfl, rfl, rfl⟩

section effect
variable {i : Instr} {s t : State}

theorem Effect.trap_pc (h : Effect i s t) (hi : isTrap i) : t.pc = s.pc := by
  obtain hpc | ⟨nzp, off, hbr, -⟩ | hrest := h.pc
  · exact hpc
  · exact absurd (.inl ⟨nzp, off, hbr⟩) (not_changesPc_of_isTrap hi)
  · exact absurd (.inr hrest) (not_changesPc_of_isTrap hi)

/-- What a trap leaves of memory and of the host's inputs: GETC and IN take one byte, and nothing
else changes (rule R87). -/
theorem Effect.trap_host (h : Effect i s t) (hi : isTrap i) :
    t.mem = s.mem ∧ t.polls = s.polls ∧ t.polled = s.polled ∧ t.silent = s.silent ∧
      (readsHost i ∧ t.chars = s.chars.tail ∧ t.taken = s.taken + 1 ∨
        flagRegister i = none ∧ t.chars = s.chars ∧ t.taken = s.taken) := by
  cases h with
  | result _ _ hlink | store _ _ _ hlink =>
    exact absurd (hlink.symm.trans (linksR7_of_isTrap hi)) (by decide)
  | branchNotTaken | branch | rti | res => cases linksR7_of_isTrap hi
  | jump _ hj => exact absurd (.inr (hj.imp_right .inl)) (not_changesPc_of_isTrap hi)
  | call _ hj => exact absurd (.inr (.inr (.inr hj))) (not_changesPc_of_isTrap hi)
  | getc hn | inp hn =>
    refine ⟨rfl, rfl, rfl, rfl, .inl ⟨?_, rfl, rfl⟩⟩
    rcases hn with rfl | rfl <;> simp [readsHost]
  | out hn | halt hn =>
    exact ⟨rfl, rfl, rfl, rfl, .inr ⟨by rcases hn with rfl | rfl <;> rfl, rfl, rfl⟩⟩
  | puts hn | putsp hn =>
    obtain ⟨hmem, -⟩ := State.writeString_keeps_memory _ _
    obtain ⟨hpolls, hchars, hsilent, hpolled, htaken⟩ := State.writeString_sameHost _ _
    exact ⟨hmem, hpolls, hpolled, hsilent,
      .inr ⟨by rcases hn with rfl | rfl <;> rfl, hchars, htaken⟩⟩
  | undefinedTrap hv =>
    exact ⟨rfl, rfl, rfl, rfl, .inr ⟨flagRegister_undefinedTrap hv, rfl, rfl⟩⟩

/-- The frame of every trap: besides R7 a trap writes at most the register that sets the flags. -/
theorem Effect.trapFrame (h : Effect i s t) (hi : isTrap i) :
    TrapFrame (flagRegister i).toList s t := by
  obtain ⟨hmem, hpolls, hpolled, hsilent, -⟩ := h.trap_host hi
  have hregs : SameRegsBut (.r7 :: (flagRegister i).toList) s t := fun r hr => by
    have hflag : flagRegister i ≠ some r := by simpa using List.not_mem_of_not_mem_cons hr
    exact h.reg (notMem_writtenRegs.2 ⟨hflag, fun _ => List.ne_of_not_mem_cons hr⟩)
  exact ⟨h.link (linksR7_of_isTrap hi), h.trap_pc hi, hregs, fun a _ => State.cell_congr hmem a,
    hpolls, hpolled, hsilent⟩

end effect

/-- OUT, PUTS, PUTSP, HALT and an undefined selector: a trap that sets no flags takes no byte. -/
theorem quietTrap_frame {i : Instr} {s t : State} (hi : isTrap i) (hflag : flagRegister i = none)
    (h : exec i s = .next t) :
    TrapFrame [] s t ∧ t.cond = s.cond ∧ t.chars = s.chars ∧ t.taken = s.taken := by
  have heffect := effect_of_exec h
  have hframe := heffect.trapFrame hi
  rw [hflag] at hframe
  obtain ⟨-, -, -, -, ⟨hreads, -⟩ | ⟨-, hinput⟩⟩ := heffect.trap_host hi
  · exact absurd hreads (not_readsHost_of_flagRegister hflag)
  obtain ⟨-, hcond⟩ | ⟨r, hsome, -⟩ := heffect.cond
  · exact ⟨hframe, hcond, hinput⟩
  · exact absurd (hflag.symm.trans hsome) (by simp)

/-! ### The character that GETC and IN store -/

/-- Bit 15 of a widened byte is clear, so its flag is never NEG (decision D9). -/
theorem Cond.ofWord_zext16 (c : Byte) : Cond.ofWord (zext16 c) = if c = 0 then .zro else .pos := by
  have hzero : zext16 c = 0 ↔ c = 0 := by unfold zext16; bv_omega
  have hsign : (zext16 c).getLsbD 15 = false := by simp [zext16]
  simp only [Cond.ofWord, hzero, hsign, Bool.false_eq_true, if_false]

theorem State.storeChar_reg_r0 (s : State) (c : Byte) :
    (s.storeChar c).reg .r0 = 0x00#8 ++ c := by
  rw [State.storeChar_eq, State.reg_writeResult_same, zext16_eq_append]

theorem State.storeChar_cond (s : State) (c : Byte) :
    (s.storeChar c).cond = if c = 0 then .zro else .pos :=
  Cond.ofWord_zext16 c

/-! ### The strings that PUTS and PUTSP write -/

theorem putspBytes_eq (w : Word) :
    putspBytes w =
      w.extractLsb 7 0 :: if w.extractLsb 15 8 = 0#8 then [] else [w.extractLsb 15 8] := by
  unfold putspBytes
  split <;> rfl

/-- What a string routine that writes `bytesOf w` for each word `w` does (rules R83 and R85): `n` is
the number of words before the scan's end. -/
theorem exists_scan_of_exec {i : Instr} {s : State} {bytesOf : Word → List Byte} (hi : isTrap i)
    (hflag : flagRegister i = none)
    (h : exec i s = .next (s.enterTrap.writeString (scanFrom bytesOf s.mem (s.reg .r0)))) :
    ∃ n < 65536, ∃ t, exec i s = .next t ∧
      (∀ k < n, s.reg .r0 + BitVec.ofNat 16 k ≠ Config.kbsr ∧
        s.cell (s.reg .r0 + BitVec.ofNat 16 k) ≠ 0) ∧
      t.out = s.out ++ (List.range n).flatMap
        (fun k => bytesOf (s.cell (s.reg .r0 + BitVec.ofNat 16 k))) ∧
      ((s.reg .r0 + BitVec.ofNat 16 n = Config.kbsr ∧ t.status = .faulted .stringAtKbsr) ∨
        (s.reg .r0 + BitVec.ofNat 16 n ≠ Config.kbsr ∧
          s.cell (s.reg .r0 + BitVec.ofNat 16 n) = 0 ∧ t.status = s.status)) ∧
      TrapFrame [] s t ∧ t.cond = s.cond ∧ t.chars = s.chars ∧ t.taken = s.taken := by
  obtain ⟨n, hn, hbefore, hbytes, hend⟩ := scanString_spec bytesOf s.mem _ (s.reg .r0) rfl
  have hout : (s.enterTrap.writeString (scanFrom bytesOf s.mem (s.reg .r0))).out =
      s.out ++ (scanFrom bytesOf s.mem (s.reg .r0)).1 := by
    obtain ⟨-, -, -, hout⟩ :=
      s.enterTrap.writeString_keeps (scanFrom bytesOf s.mem (s.reg .r0))
    exact hout
  refine ⟨n, hn.trans_lt (BitVec.isLt _), _, h, hbefore, hout.trans (congrArg _ hbytes), ?_,
    quietTrap_frame hi hflag h⟩
  refine hend.imp (fun ⟨haddr, hfatal⟩ => ⟨haddr, ?_⟩)
    (fun ⟨haddr, hzero, hended⟩ => ⟨haddr, hzero, ?_⟩)
  · rw [State.writeString, scanFrom, hfatal]
    rfl
  · rw [State.writeString, scanFrom, hended]
    rfl

/-! ### The meanings of the traps -/

section exec
variable {s : State}

theorem exec_getc_next {c : Byte} (h : s.nextByte = some c) :
    exec .getc s = .next (s.enterTrap.dropByte.storeChar c) := execGetc_next h

theorem exec_getc_blocks (h : s.nextByte = none) : exec .getc s = .fault .hostReadBlocks :=
  execGetc_blocks h

theorem exec_inp_next {c : Byte} (h : s.nextByte = some c) :
    exec .inp s =
      .next ((((s.enterTrap.output inPrompt).dropByte).output [c]).storeChar c) := execIn_next h

theorem exec_inp_blocks (h : s.nextByte = none) : exec .inp s = .fault .hostReadBlocks :=
  execIn_blocks h

theorem exec_trap_undefined {v : BitVec 8} (h : v.toNat < 0x20 ∨ 0x25 < v.toNat) :
    exec (.trap v) s = .next (s.enterTrap.raiseFatal .undefinedTrap) := execTrap_undefined h s

variable (s)

theorem exec_out :
    exec .out s = .next (s.enterTrap.output [(s.reg .r0).extractLsb 7 0]) := rfl

theorem exec_puts :
    exec .puts s = .next (s.enterTrap.writeString (scanFrom putsBytes s.mem (s.reg .r0))) :=
  execPuts_eq s

theorem exec_putsp :
    exec .putsp s = .next (s.enterTrap.writeString (scanFrom putspBytes s.mem (s.reg .r0))) :=
  execPutsp_eq s

theorem exec_halt :
    exec .halt s = .next { s.enterTrap.output haltMessage with status := .halted } := rfl

end exec

end Sys2Proof.Machine

namespace Sys2Proof.Proofs

open Sys2Proof.Machine

/-- Settles O31, by what each trap's effect leaves of memory, the host's inputs, PC and R7. -/
theorem trapRoutinesTouchNoMemoryAndNoKeyboard :
    Obligations.TrapRoutinesTouchNoMemoryAndNoKeyboard := by
  intro i s t hi h
  have heffect := effect_of_exec h
  obtain ⟨hmem, hpolls, hpolled, -, hinput⟩ := heffect.trap_host hi
  refine ⟨hmem, hpolls, hpolled, heffect.trap_pc hi, heffect.link (linksR7_of_isTrap hi), ?_, ?_⟩
  · intro hreads
    exact (hinput.resolve_right fun ⟨hflag, _⟩ => not_readsHost_of_flagRegister hflag hreads).2
  · intro hquiet
    exact (hinput.resolve_left fun ⟨hreads, _⟩ => hquiet hreads).2

/-- Settles O49: the dispatch in the decoder and in the executor, the frame of every trap, and the
selectors that name no routine. -/
theorem trapDispatchesOnTheSelector : Obligations.TrapDispatchesOnTheSelector := by
  refine ⟨fun _ => decode_of_trap_opcode, fun s => ⟨rfl, rfl, rfl, rfl, rfl, rfl⟩,
    fun i s t hi h => ?_, fun v s hv => ⟨_, exec_trap_undefined hv, rfl, ?_⟩⟩
  · obtain ⟨hlink, hpc, -⟩ := (effect_of_exec h).trapFrame hi
    exact ⟨hlink, hpc⟩
  · obtain ⟨hframe, hcond, hinput⟩ := quietTrap_frame (.inl ⟨v, rfl⟩)
      (flagRegister_undefinedTrap hv) (exec_trap_undefined hv (s := s))
    exact ⟨hframe, hcond, rfl, hinput⟩

/-- Settles O50: GETC stores the byte and takes it from the host. -/
theorem getcReadsOneCharacter : Obligations.GetcReadsOneCharacter := by
  refine ⟨fun s c hc => ⟨_, exec_getc_next hc, State.storeChar_reg_r0 _ c,
    State.storeChar_cond _ c, ?_, ⟨rfl, rfl⟩, rfl, rfl⟩, fun _ => exec_getc_blocks⟩
  exact (effect_of_exec (exec_getc_next hc)).trapFrame (by simp [isTrap])

/-- Settles O51: OUT appends the low byte, in the frame of the traps that set no flags. -/
theorem outWritesTheLowByteOfR0 : Obligations.OutWritesTheLowByteOfR0 :=
  fun s => ⟨_, exec_out s, rfl, rfl, quietTrap_frame (by simp [isTrap]) rfl (exec_out s)⟩

/-- Settles O52: the scan with one byte a word. -/
theorem putsWritesUpToTheZeroWord : Obligations.PutsWritesUpToTheZeroWord := by
  intro s
  simp only [List.map_eq_flatMap]
  exact exists_scan_of_exec (by simp [isTrap]) rfl (exec_puts s)

/-- Settles O53: IN writes the prompt and the echo, stores the byte and takes it from the host. -/
theorem inPromptsReadsAndEchoes : Obligations.InPromptsReadsAndEchoes := by
  refine ⟨fun s c hc => ⟨_, exec_inp_next hc, rfl, State.storeChar_reg_r0 _ c,
    State.storeChar_cond _ c, rfl, ?_, rfl, rfl⟩, fun _ => exec_inp_blocks⟩
  exact (effect_of_exec (exec_inp_next hc)).trapFrame (by simp [isTrap])

/-- Settles O54: the scan with the low byte of each word and its high byte if that is not zero. -/
theorem putspWritesTwoCharactersAWord : Obligations.PutspWritesTwoCharactersAWord := by
  intro s
  simp only [← putspBytes_eq]
  exact exists_scan_of_exec (by simp [isTrap]) rfl (exec_putsp s)

/-- Settles O55: HALT's message is empty, what the host has received of a halted machine is its
output, and only a running machine steps. -/
theorem haltStopsAndFlushes : Obligations.HaltStopsAndFlushes := by
  refine fun s => ⟨_, exec_halt s, rfl, List.append_nil _, fun _ => Iff.rfl, fun u hstep => ?_,
    quietTrap_frame (by simp [isTrap]) rfl (exec_halt s)⟩
  obtain ⟨hrunning, -⟩ := step_next hstep
  cases hrunning

end Sys2Proof.Proofs
end

section
/-! PROOFS. The statements of 44_fatal.md: RTI and RES. The opcode alone selects each of them, and
each does nothing but raise its fatal condition. -/

namespace Sys2Proof.Machine

/-! ### The meanings of the fatal opcodes -/

section exec
variable (s : State)

theorem exec_rti : exec .rti s = .next (s.raiseFatal .rtiUnsupported) := rfl

theorem exec_res : exec .res s = .next (s.raiseFatal .reservedOpcode) := rfl

end exec

end Sys2Proof.Machine

namespace Sys2Proof.Proofs

open Sys2Proof.Machine

/-- Settles O57: RTI's row of the decoder has no operand field, and raising the fatal condition sets
the status alone. -/
theorem rtiIsFatal : Obligations.RtiIsFatal :=
  ⟨fun _ => decode_of_rti_opcode, exec_rti⟩

/-- Settles O58: RES's row of the decoder has no operand field, and raising the fatal condition sets
the status alone. -/
theorem resIsFatal : Obligations.ResIsFatal :=
  ⟨fun _ => decode_of_res_opcode, exec_res⟩

end Sys2Proof.Proofs
end

section
/-! PROOFS. The statements of 60_exceptions.md: the four fatal conditions. `FatalCase` says per reason
which instruction raises it and where; an instruction ends FAULTED in exactly these cases, and the
decoder reads them off the fetched word. -/

namespace Sys2Proof

open Laws.OpcodeBits (opcodeOf)

/-! ### The words that decode to an instruction that can be fatal -/

section words
variable {w : Word}

theorem opcode_of_decode {i : Instr} (h : decode w = i) : Field.opcode w = opcodeOf i := by
  rw [← opcodeOf_decode, h]

theorem decode_eq_rti : decode w = .rti ↔ Field.opcode w = 0x8#4 :=
  ⟨opcode_of_decode, decode_of_rti_opcode⟩

theorem decode_eq_res : decode w = .res ↔ Field.opcode w = 0xD#4 :=
  ⟨opcode_of_decode, decode_of_res_opcode⟩

theorem decode_eq_iff_decodeTrap {i : Instr} (hi : opcodeOf i = 0xF#4) :
    decode w = i ↔ Field.opcode w = 0xF#4 ∧ decodeTrap (Field.vect8 w) = i := by
  constructor
  · intro h
    have hop : Field.opcode w = 0xF#4 := (opcode_of_decode h).trans hi
    exact ⟨hop, decode_of_trap_opcode hop ▸ h⟩
  · rintro ⟨hop, h⟩
    rw [decode_of_trap_opcode hop, h]

end words

theorem decodeTrap_eq_puts {v : BitVec 8} : decodeTrap v = .puts ↔ v = 0x22#8 := by
  unfold decodeTrap
  split_ifs <;> simp_all

theorem decodeTrap_eq_putsp {v : BitVec 8} : decodeTrap v = .putsp ↔ v = 0x24#8 := by
  unfold decodeTrap
  split_ifs <;> simp_all

theorem trapIsNotRoutine_iff {v : BitVec 8} :
    trapIsNotRoutine v = true ↔ v.toNat < 0x20 ∨ 0x25 < v.toNat := by
  simp only [trapIsNotRoutine, Bool.not_eq_true', Bool.and_eq_false_iff, decide_eq_false_iff_not]
  bv_omega

theorem decodeTrap_eq_trap {u v : BitVec 8} :
    decodeTrap u = .trap v ↔ u = v ∧ (v.toNat < 0x20 ∨ 0x25 < v.toNat) := by
  rw [← trapIsNotRoutine_iff]
  constructor
  · intro h
    refine ⟨?_, trapIsNotRoutine_of_decodeTrap h⟩
    unfold decodeTrap at h
    split_ifs at h
    exact Instr.trap.inj h
  · rintro ⟨rfl, hv⟩
    exact decodeTrap_of_not_routine hv

end Sys2Proof

namespace Sys2Proof.Machine

/-! ### The string scan that reaches 0xFE00 -/

/-- The cells from R0 on reach 0xFE00 with no zero word before it (rules R83 and R85). -/
def ScanReachesKbsr (s : State) : Prop :=
  ∃ n < 65536, s.reg .r0 + BitVec.ofNat 16 n = Config.kbsr ∧
    ∀ k < n, s.cell (s.reg .r0 + BitVec.ofNat 16 k) ≠ 0

/-- The scan ends at 0xFE00 or at the first zero word, whichever comes first; which of the two does
not depend on the bytes it writes. -/
theorem scanFrom_fatal_iff (bytesOf : Word → List Byte) (s : State) :
    (scanFrom bytesOf s.mem (s.reg .r0)).2 = true ↔ ScanReachesKbsr s := by
  obtain ⟨n, hn, hbefore, -, hend⟩ := scanString_spec bytesOf s.mem _ (s.reg .r0) rfl
  obtain ⟨haddr, hfatal⟩ | ⟨haddr, hzero, hended⟩ := hend
  · exact iff_of_true hfatal
      ⟨n, hn.trans_lt (BitVec.isLt _), haddr, fun k hk => (hbefore k hk).2⟩
  · refine iff_of_false (by rw [scanFrom, hended]; decide) ?_
    rintro ⟨m, hm, hkbsr, hcells⟩
    have hdist : (Config.kbsr - s.reg .r0).toNat = m := by
      rw [← hkbsr, add_sub_cancel_left, BitVec.toNat_ofNat, Nat.mod_eq_of_lt hm]
    have hne : n ≠ m := by
      rintro rfl
      exact haddr hkbsr
    exact hcells n (by omega) hzero

/-- What the string routines leave in the status, from a running machine. -/
theorem stringRoutine_faulted_iff {s : State} {bytesOf : Word → List Byte} {r : FatalReason}
    (hrun : s.status = .running) :
    (s.enterTrap.writeString (scanFrom bytesOf s.mem (s.reg .r0))).status = .faulted r ↔
      r = .stringAtKbsr ∧ ScanReachesKbsr s := by
  rw [← scanFrom_fatal_iff bytesOf]
  obtain ⟨hscan, h⟩ | ⟨hscan, h⟩ :=
    s.enterTrap.writeString_cases (scanFrom bytesOf s.mem (s.reg .r0)) <;> rw [h, hscan]
  · simp [eq_comm]
  · simp [hrun]

/-- A word fetched from 0xFE00 is 0x8000 or 0x0000, so it is no TRAP. -/
theorem State.pc_ne_kbsr_of_trap_opcode {s : State} (h : Field.opcode s.fetch.1 = 0xF#4) :
    s.pc ≠ Config.kbsr := by
  have hword : s.fetch.1 = (s.memRead s.pc).1 := rfl
  rw [hword] at h
  obtain ⟨hpc, -⟩ | ⟨c, -, -, hread⟩ | ⟨-, -, hread⟩ := s.memRead_cases s.pc
  · exact hpc
  · rw [hread] at h
    exact absurd (show Field.opcode 0x8000 = 0xF#4 from h) (by decide)
  · rw [hread] at h
    exact absurd (show Field.opcode 0x0000 = 0xF#4 from h) (by decide)

/-- The fetch of a TRAP leaves the scan's cells and R0 as they were. -/
theorem scanReachesKbsr_fetch {s : State} (h : Field.opcode s.fetch.1 = 0xF#4) :
    ScanReachesKbsr s.fetch.2 ↔ ScanReachesKbsr s := by
  rw [State.fetch_plain (State.pc_ne_kbsr_of_trap_opcode h)]
  rfl

/-! ### The instructions that end FAULTED -/

/-- The case of each fatal reason (rule R91): the instructions that raise it and, for the string
routines, the states in which they do. -/
def FatalCase (i : Instr) (s : State) : FatalReason → Prop
  | .rtiUnsupported => i = .rti
  | .reservedOpcode => i = .res
  | .undefinedTrap => ∃ v, i = .trap v ∧ (v.toNat < 0x20 ∨ 0x25 < v.toNat)
  | .stringAtKbsr =>
    ((i = .puts ∨ i = .trap 0x22) ∨ (i = .putsp ∨ i = .trap 0x24)) ∧ ScanReachesKbsr s

section exec
variable {i : Instr} {s t : State} {r : FatalReason}

theorem Effect.fatalCase (h : Effect i s t) (hrun : s.status = .running)
    (ht : t.status = .faulted r) : FatalCase i s r := by
  cases h with
  | result _ _ _ hu | store _ _ _ _ hu =>
    obtain ⟨-, -, -, hstatus, -⟩ := hu.keeps
    cases (hstatus.trans hrun).symm.trans ht
  | branchNotTaken | branch | jump | call | getc | inp | out => cases hrun.symm.trans ht
  | puts hi =>
    obtain ⟨rfl, hscan⟩ := (stringRoutine_faulted_iff hrun).1 ht
    exact ⟨.inl hi, hscan⟩
  | putsp hi =>
    obtain ⟨rfl, hscan⟩ := (stringRoutine_faulted_iff hrun).1 ht
    exact ⟨.inr hi, hscan⟩
  | halt => cases ht
  | undefinedTrap hv =>
    cases ht
    exact ⟨_, rfl, hv⟩
  | rti | res =>
    cases ht
    rfl

theorem FatalCase.exec_faulted (h : FatalCase i s r) (hrun : s.status = .running) :
    ∃ t, exec i s = .next t ∧ t.status = .faulted r := by
  cases r with
  | rtiUnsupported =>
    obtain rfl : i = .rti := h
    exact ⟨_, exec_rti s, rfl⟩
  | reservedOpcode =>
    obtain rfl : i = .res := h
    exact ⟨_, exec_res s, rfl⟩
  | undefinedTrap =>
    obtain ⟨v, rfl, hv⟩ := h
    exact ⟨_, exec_trap_undefined hv, rfl⟩
  | stringAtKbsr =>
    obtain ⟨(rfl | rfl) | (rfl | rfl), hscan⟩ := h
    · exact ⟨_, exec_puts s, (stringRoutine_faulted_iff hrun).2 ⟨rfl, hscan⟩⟩
    · exact ⟨_, exec_puts s, (stringRoutine_faulted_iff hrun).2 ⟨rfl, hscan⟩⟩
    · exact ⟨_, exec_putsp s, (stringRoutine_faulted_iff hrun).2 ⟨rfl, hscan⟩⟩
    · exact ⟨_, exec_putsp s, (stringRoutine_faulted_iff hrun).2 ⟨rfl, hscan⟩⟩

/-- A running machine's instruction that completes ends FAULTED in exactly the reason's case. -/
theorem faulted_iff_fatalCase (hrun : s.status = .running) (h : exec i s = .next t) :
    t.status = .faulted r ↔ FatalCase i s r := by
  refine ⟨(effect_of_exec h).fatalCase hrun, fun hcase => ?_⟩
  obtain ⟨u, hu, hfaulted⟩ := hcase.exec_faulted hrun
  cases h.symm.trans hu
  exact hfaulted

end exec

/-! ### The fatal cases of a fetched word -/

section fetched
variable {w : Word} {s : State}

theorem fatalCase_undefinedTrap_decode :
    FatalCase (decode w) s .undefinedTrap ↔ Field.opcode w = 0xF#4 ∧
      ((Field.vect8 w).toNat < 0x20 ∨ 0x25 < (Field.vect8 w).toNat) := by
  have htrap : ∀ v, decode w = .trap v ↔ Field.opcode w = 0xF#4 ∧ Field.vect8 w = v ∧
      (v.toNat < 0x20 ∨ 0x25 < v.toNat) := fun v => by
    rw [decode_eq_iff_decodeTrap rfl, decodeTrap_eq_trap]
  constructor
  · rintro ⟨v, hv, -⟩
    obtain ⟨hop, rfl, hout⟩ := (htrap v).1 hv
    exact ⟨hop, hout⟩
  · rintro ⟨hop, hout⟩
    exact ⟨_, (htrap _).2 ⟨hop, rfl, hout⟩, hout⟩

/-- The decoder never leaves a string routine its selector, so PUTS and PUTSP are their names. -/
theorem fatalCase_stringAtKbsr_decode :
    FatalCase (decode w) s .stringAtKbsr ↔ Field.opcode w = 0xF#4 ∧
      (Field.vect8 w = 0x22#8 ∨ Field.vect8 w = 0x24#8) ∧ ScanReachesKbsr s := by
  have hputs : decode w ≠ .trap 0x22 := fun h => absurd (trapIsNotRoutine_of_decode h) (by decide)
  have hputsp : decode w ≠ .trap 0x24 := fun h => absurd (trapIsNotRoutine_of_decode h) (by decide)
  simp only [FatalCase, hputs, hputsp, or_false, decode_eq_iff_decodeTrap (i := .puts) rfl,
    decode_eq_iff_decodeTrap (i := .putsp) rfl, decodeTrap_eq_puts, decodeTrap_eq_putsp,
    ← and_or_left, and_assoc]

end fetched

end Sys2Proof.Machine

namespace Sys2Proof.Proofs

open Sys2Proof.Machine

/-- Settles O24: an instruction ends FAULTED in exactly the reason's case, the decoder reads the case
off the word, and the fetch of a TRAP leaves the string's cells. -/
theorem fatalConditionsAreExactlyTheFour : Obligations.FatalConditionsAreExactlyTheFour := by
  refine ⟨fun s t r h => ?_, rfl, rfl, rfl, rfl⟩
  obtain ⟨hrun, hexec⟩ := step_next h
  obtain ⟨-, -, -, hstatus, -⟩ := s.fetch_keeps
  rw [faulted_iff_fatalCase (hstatus.trans hrun) hexec]
  cases r <;> simp only [reduceCtorEq, true_and, false_and, or_false, false_or]
  case rtiUnsupported => exact decode_eq_rti
  case reservedOpcode => exact decode_eq_res
  case undefinedTrap => exact fatalCase_undefinedTrap_decode
  case stringAtKbsr =>
    exact fatalCase_stringAtKbsr_decode.trans
      (and_congr_right fun hop => and_congr_right fun _ => scanReachesKbsr_fetch hop)

/-- Settles O25: only a running machine steps, and of a machine that is not HALTED the host has
received a prefix of the output. -/
theorem fatalEndsTheRun : Obligations.FatalEndsTheRun := by
  refine fun s r => ⟨rfl, fun t hstep => ?_, fun bs => Iff.rfl⟩
  obtain ⟨hrunning, -⟩ := step_next hstep
  cases hrunning

end Sys2Proof.Proofs
end

section
/-! PROOFS. The statements of 70_reset_and_hazards.md: the state at the start of execution, and the
image loader, whose one induction is over the words it places. -/

namespace Sys2Proof.Machine

/-! ### The state at the start of execution -/

/-- With no image loaded no cell is listed, and an unlisted cell is zero. -/
@[simp] theorem State.reset_cell (a : Word) : State.reset.cell a = 0 := rfl

/-! ### The bytes of an image -/

/-- A word as an image carries it, its high byte first (rule R104). -/
def bigEndianBytes (w : Word) : List Byte := [w.extractLsb 15 8, w.extractLsb 7 0]

theorem wordsOfBytes_flatMap_bigEndianBytes (ws : List Word) :
    wordsOfBytes (ws.flatMap bigEndianBytes) = some ws := by
  induction ws with
  | nil => rfl
  | cons w ws ih =>
    have hw : w.extractLsb 15 8 ++ w.extractLsb 7 0 = w :=
      (extractLsb'_append_adjacent w 0 8 8).trans BitVec.extractLsb'_eq_self
    simp only [List.flatMap_cons, bigEndianBytes, List.cons_append, List.nil_append, wordsOfBytes]
    rw [hw, ih, Option.map_some]

theorem loadImage_flatMap_bigEndianBytes (origin : Word) (ws : List Word) (m : Memory) :
    loadImage ((origin :: ws).flatMap bigEndianBytes) m = placeWords ws origin.toNat m := by
  rw [loadImage, wordsOfBytes_flatMap_bigEndianBytes]

/-! ### Placing words -/

theorem placeWords_cons_of_lt {a : Nat} (ha : a < 65536) (w : Word) (ws : List Word) (m : Memory) :
    placeWords (w :: ws) a m = placeWords ws (a + 1) (Memory.write m a w) := if_pos ha

/-- The cells of a memory after the words `ws` were placed from address `a` on: each word in its cell,
every other cell as in `m`. -/
structure HoldsFrom (ws : List Word) (a : Nat) (m m' : Memory) : Prop where
  placed : ∀ k (h : k < ws.length), Memory.read m' (a + k) = ws[k]
  kept : ∀ b, b < a ∨ a + ws.length ≤ b → Memory.read m' b = Memory.read m b

/-- The first word is stored first, and the words after it leave its cell. -/
theorem HoldsFrom.cons {w : Word} {ws : List Word} {a : Nat} {m m' : Memory}
    (h : HoldsFrom ws (a + 1) (Memory.write m a w) m') : HoldsFrom (w :: ws) a m m' where
  placed
    | 0, _ => (h.kept a (.inl a.lt_succ_self)).trans (Memory.read_write_same m a w)
    | k + 1, hk => by
      rw [← Nat.succ_add_eq_add_succ]
      exact h.placed k (Nat.lt_of_succ_lt_succ hk)
  kept b hb := by
    rw [List.length_cons] at hb
    rw [h.kept b (by omega), Memory.read_write_other (by omega)]

theorem placeWords_holdsFrom {ws : List Word} {a : Nat} (h : a + ws.length ≤ 65536) (m : Memory) :
    ∃ m', placeWords ws a m = some m' ∧ HoldsFrom ws a m m' := by
  induction ws generalizing a m with
  | nil => exact ⟨m, rfl, nofun, fun _ _ => rfl⟩
  | cons w ws ih =>
    rw [List.length_cons] at h
    obtain ⟨m', hplace, hm'⟩ := ih (a := a + 1) (by omega) (Memory.write m a w)
    exact ⟨m', (placeWords_cons_of_lt (by omega) w ws m).trans hplace, hm'.cons⟩

/-! ### Loading images -/

theorem loadImages_cons {image : List Byte} {m m' : Memory} (h : loadImage image m = some m')
    (images : List (List Byte)) : loadImages (image :: images) m = loadImages images m' := by
  rw [loadImages, h, Option.bind_some]

theorem State.boot_eq_some {images : List (List Byte)} {s : State} :
    State.boot images = some s ↔
      ∃ m, loadImages images [] = some m ∧ State.resetWith Config.gprInit m = s :=
  Option.map_eq_some_iff

end Sys2Proof.Machine

namespace Sys2Proof.Proofs

open Sys2Proof.Machine

/-- Settles O59: a word's two bytes read back as the word, the words are placed one by one from the
origin on, and a run starts in the reset state with the loaded memory. -/
theorem imageLoading : Obligations.ImageLoading := by
  refine ⟨fun origin ws m hfits => ?_, fun _ => rfl,
    fun _ images _ _ himage => loadImages_cons himage images, fun images s hboot => ?_⟩
  · obtain ⟨m', hplace, hm'⟩ := placeWords_holdsFrom hfits m
    exact ⟨m', (loadImage_flatMap_bigEndianBytes origin ws m).trans hplace, hm'.placed, hm'.kept⟩
  · obtain ⟨m, hload, rfl⟩ := State.boot_eq_some.1 hboot
    exact ⟨rfl, hload⟩

/-- Settles O33: each field of the state at the start of execution is what `State.resetWith` gives
it, for every `GPR_INIT` and `MEM_INIT`. -/
theorem stateAtTheStartOfExecution : Obligations.StateAtTheStartOfExecution :=
  ⟨fun _ _ => ⟨rfl, rfl, rfl, rfl, rfl, rfl, rfl, rfl, rfl, rfl, rfl, rfl, rfl⟩,
    Config.gprInit, rfl, State.reset_cell⟩

end Sys2Proof.Proofs
end
